-- ==== Sys2Proof/Word.lean ====
section
/-! DEFINITION. The word types of the block and the integer operators of 00_scope.md rule R11. -/

namespace Sys2Proof

/-- One byte of patch RAM, and one output sample. -/
abbrev Byte := BitVec 8

/-- A register as the host reads it, and a command word (10_state.md section 2, 30_encoding.md R70). -/
abbrev Word := BitVec 32

/-- A bus address, 0x000 to 0xFFF (20_memory.md R50). -/
abbrev Addr := BitVec 12

end Sys2Proof
end

