-- ==== Sys2Proof/Config.lean ====
section
/-! DEFINITION. The implementation parameters of 00_scope.md rule R6, at the values of FMV-1, and the free
values. ALG_TABLE, the one parameter that is a table, stands with the other tables in Machine/Tables.lean. -/

namespace Sys2Proof.Config

/-- FS, samples per second. -/
abbrev FS : Nat := 8000
/-- NOPS, operators per voice: the type OpIx has one name for each (OpIx.length_all). -/
abbrev NOPS : Nat := 4
/-- NALG, the number of algorithms. -/
abbrev NALG : Nat := 11
/-- NSONG, the song channels 0 to 3. -/
abbrev NSONG : Nat := 4
/-- NCH, channels in total. A parameter of R6 in 4..16; this is FMV-1's value (log 6). -/
abbrev NCH : Nat := 8
/-- VPC, voices per channel pool. A parameter of R6 in 1..16; this is FMV-1's value (log 6). -/
abbrev VPC : Nat := 8
/-- NPATCH, patch slots. A parameter of R6 in 1..16; this is FMV-1's value (log 6). -/
abbrev NPATCH : Nat := 16
/-- The size of a patch slot in bytes (10_state.md R44). -/
abbrev slotSize : Nat := 64
/-- The bus address of slot 0 (10_state.md R44). -/
abbrev patchBase : Nat := 0x400
/-- TIME_UNIT, samples per unit of a time value. -/
abbrev TIME_UNIT : Nat := 80
/-- EFULL, full scale of an envelope level. -/
abbrev EFULL : Nat := 1048576
/-- SIN_AMP, the peak of the sine table. -/
abbrev SIN_AMP : Nat := 4095
/-- MOD_SHIFT, from modulation units to phase units. -/
abbrev MOD_SHIFT : Nat := 20
/-- FB_SHIFT, the right shift of the feedback term. -/
abbrev FB_SHIFT : Nat := 6
/-- OUT_SHIFT, from voice amplitude to 8-bit steps. -/
abbrev OUT_SHIFT : Nat := 5
/-- LFO_INC_UNIT, phase increment per unit of LFO speed. -/
abbrev LFO_INC_UNIT : Nat := 53687
/-- LFO_AGE_MAX, where the LFO age counter saturates. -/
abbrev LFO_AGE_MAX : Nat := 8000
/-- TEMPO_RESET, in bpm. -/
abbrev TEMPO_RESET : Nat := 120

/-- FREE VALUE. The byte a patch-RAM address holds at power-up, by its bus address. 70_reset_and_hazards.md
R216: "a model takes the initial patch RAM as an arbitrary array" (log 4). -/
opaque powerUpByte : Nat → Byte

/-- FREE VALUE. TICK_LATENCY: OPEN, timing only (R6, 70_reset_and_hazards.md R223). No rule reads it (log 7). -/
opaque tickLatency : Nat

/-- FREE VALUE. What the host sequencer takes for ticksFactor at a tempo of 0 bpm, for which
48_host_sequencer.md R181 states no result (log 16). The block never computes it. -/
opaque ticksFactorAtZero : Nat

end Sys2Proof.Config
end

