-- ==== Sys2Proof/Syntax.lean ====
section
/-! DEFINITION. The instructions of the block: the bus accesses of its host, one constructor for each row of
spec/opcode_table.json (10_state.md R20, 20_memory.md R50, 30_encoding.md R73). -/

namespace Sys2Proof

/-- One access on the host bus: address, direction, width, and data for a write (20_memory.md R50). -/
inductive BusAccess where
  | read32 (addr : Addr)
  | write32 (addr : Addr) (data : Word)
  | read8 (addr : Addr)
  | write8 (addr : Addr) (data : Byte)
deriving DecidableEq, Repr

/-- The instructions. A command keeps, beside the fields its opcode uses, the bits that must be 0 (30_encoding.md
R76): `rsv` is bits 31:26, `unused` is every bit above the used ones. Each command's own rule says that they are
E_RSVD unless 0. -/
inductive Instr where
  /-- NOP, R91. -/
  | nop (unused : BitVec 28)
  /-- NOTE_ON, R92. -/
  | noteOn (ch slot : BitVec 4) (key vel : BitVec 7) (rsv : BitVec 6)
  /-- NOTE_ON_T, R93. -/
  | noteOnT (ch slot : BitVec 4) (key vel : BitVec 7) (rsv : BitVec 6)
  /-- NOTE_OFF, R94. -/
  | noteOff (ch : BitVec 4) (unused : BitVec 24)
  /-- ALL_OFF, R95. -/
  | allOff (unused : BitVec 28)
  /-- CLEAR_COUNT, R96. -/
  | clearCount (unused : BitVec 28)
  /-- ENGINE_RESET, R97. -/
  | engineReset (unused : BitVec 28)
  /-- RESERVED_OP7: a command word with OP 0x7, R74. -/
  | reservedOp7 (rest : BitVec 28)
  /-- RESERVED_OP8_F: a command word with OP 0x8 to 0xF, R74; `op` is bits 2:0. -/
  | reservedOp8F (op : BitVec 3) (rest : BitVec 28)
  /-- TICK: a 32-bit read of OUT_DATA, R98. -/
  | tick
  /-- RD32: a 32-bit read, R50. -/
  | rd32 (addr : Addr)
  /-- WR32: a 32-bit write, R50. -/
  | wr32 (addr : Addr) (data : Word)
  /-- RD8: an 8-bit read, R56. -/
  | rd8 (addr : Addr)
  /-- WR8: an 8-bit write, R56. -/
  | wr8 (addr : Addr) (data : Byte)
deriving DecidableEq, Repr

/-- The bus address of CMD (10_state.md R23). -/
abbrev cmdAddr : Addr := 0x008#12

/-- The bus address of OUT_DATA (10_state.md R30). -/
abbrev outDataAddr : Addr := 0x024#12

end Sys2Proof
end

