-- ==== Sys2Proof/WellFormed.lean ====
section
/-! DEFINITION. Which terms of Instr stand for their own row of the table. -/

namespace Sys2Proof

/-- A 32-bit read of OUT_DATA is TICK and a 32-bit write of CMD is a command, so the terms RD32 0x024 and
WR32 0x008 are second names of other rows' accesses and no decoder answers them. Every other term is well formed:
every field of 30_encoding.md R71 takes every value of its width (R72). -/
def Instr.wf : Instr → Bool
  | .nop _ => true
  | .noteOn _ _ _ _ _ => true
  | .noteOnT _ _ _ _ _ => true
  | .noteOff _ _ => true
  | .allOff _ => true
  | .clearCount _ => true
  | .engineReset _ => true
  | .reservedOp7 _ => true
  | .reservedOp8F _ _ => true
  | .tick => true
  | .rd32 addr => addr != outDataAddr
  | .wr32 addr _ => addr != cmdAddr
  | .rd8 _ => true
  | .wr8 _ _ => true

/-- The command words an assembler can write (30_encoding.md R81): "every unwritten field 0", and an opcode with a
mnemonic. A command that is not clean is still executed: it is rejected with E_OPCODE or E_RSVD (R74, R76). -/
def Instr.clean : Instr → Bool
  | .nop unused => unused == 0
  | .noteOn _ _ _ _ rsv => rsv == 0
  | .noteOnT _ _ _ _ rsv => rsv == 0
  | .noteOff _ unused => unused == 0
  | .allOff unused => unused == 0
  | .clearCount unused => unused == 0
  | .engineReset unused => unused == 0
  | .reservedOp7 _ => false
  | .reservedOp8F _ _ => false
  | .tick => true
  | .rd32 _ => true
  | .wr32 _ _ => true
  | .rd8 _ => true
  | .wr8 _ _ => true

end Sys2Proof
end

