-- ==== Sys2Proof/Decode.lean ====
section
/-! DEFINITION. The decoder, from a command word and from a bus access to an instruction, and the encoder back
(30_encoding.md R70 to R76; 20_memory.md R50). -/

namespace Sys2Proof

/-- The instruction a 32-bit write of `w` to CMD is. Fields by 30_encoding.md R71: OP 3:0, CH 7:4, SLOT 11:8,
KEY 18:12, VEL 25:19, RSV 31:26. Total: every word has an opcode of R73 or R74. -/
def decodeCommand (w : Word) : Instr :=
  let above4 := w.extractLsb' 4 28
  match (w.extractLsb' 0 4).toNat with
  | 0 => .nop above4
  | 1 => .noteOn (w.extractLsb' 4 4) (w.extractLsb' 8 4) (w.extractLsb' 12 7) (w.extractLsb' 19 7) (w.extractLsb' 26 6)
  | 2 => .noteOnT (w.extractLsb' 4 4) (w.extractLsb' 8 4) (w.extractLsb' 12 7) (w.extractLsb' 19 7) (w.extractLsb' 26 6)
  | 3 => .noteOff (w.extractLsb' 4 4) (w.extractLsb' 8 24)
  | 4 => .allOff above4
  | 5 => .clearCount above4
  | 6 => .engineReset above4
  | 7 => .reservedOp7 above4
  | _ => .reservedOp8F (w.extractLsb' 0 3) above4

/-- The instruction a bus access is. The rows TICK and CMD take their accesses away from RD32 and WR32. -/
def decodeAccess : BusAccess → Instr
  | .read32 addr => if addr = outDataAddr then .tick else .rd32 addr
  | .write32 addr data => if addr = cmdAddr then decodeCommand data else .wr32 addr data
  | .read8 addr => .rd8 addr
  | .write8 addr data => .wr8 addr data

/-- A command word from its opcode and the bits above it. -/
def opWord (op : BitVec 4) (rest : BitVec 28) : Word := rest ++ op

/-- A command word from all its fields (30_encoding.md R71). -/
def noteWord (op ch slot : BitVec 4) (key vel : BitVec 7) (rsv : BitVec 6) : Word :=
  rsv ++ vel ++ key ++ slot ++ ch ++ op

/-- NOTE_OFF's word: CH, and the bits above it. -/
def offWord (ch : BitVec 4) (unused : BitVec 24) : Word := unused ++ ch ++ 3#4

/-- The word of an opcode 0x8 to 0xF: bit 3 is 1. -/
def reservedWord (op : BitVec 3) (rest : BitVec 28) : Word := rest ++ (1#1 ++ op)

/-- The bus access of an instruction (30_encoding.md R81: a command stands for WR32 0x008, w). -/
def encode : Instr → BusAccess
  | .nop unused => .write32 cmdAddr (opWord 0 unused)
  | .noteOn ch slot key vel rsv => .write32 cmdAddr (noteWord 1 ch slot key vel rsv)
  | .noteOnT ch slot key vel rsv => .write32 cmdAddr (noteWord 2 ch slot key vel rsv)
  | .noteOff ch unused => .write32 cmdAddr (offWord ch unused)
  | .allOff unused => .write32 cmdAddr (opWord 4 unused)
  | .clearCount unused => .write32 cmdAddr (opWord 5 unused)
  | .engineReset unused => .write32 cmdAddr (opWord 6 unused)
  | .reservedOp7 rest => .write32 cmdAddr (opWord 7 rest)
  | .reservedOp8F op rest => .write32 cmdAddr (reservedWord op rest)
  | .tick => .read32 outDataAddr
  | .rd32 addr => .read32 addr
  | .wr32 addr data => .write32 addr data
  | .rd8 addr => .read8 addr
  | .wr8 addr data => .write8 addr data

/-- Why a word numbered as opcode_table.json numbers it stands for no access. -/
inductive WordReject where
  /-- No row of the table has a word of this size. -/
  | noRowOfThisSize
  /-- A command word has 32 bits (30_encoding.md R70). -/
  | notACommandWord
  /-- A bus address has 12 bits (20_memory.md R50). -/
  | notABusAddress
deriving DecidableEq, Repr

/-- The bus access that a table word stands for. A word of 32 bits is a command word, written to CMD. A shorter
word is the 12-bit address of a BUS row; the table gives a BUS row no bits for direction and width, so the rows
share their words: 0x024 is TICK's, the one BUS row with a fixed word, and any other is read as RD8's, the first row
whose only bits are its address; a row with too few bits for an address is RD32 (DESIGN CHOICE, log 12). -/
def tableAccess (nbits w : Nat) : Except WordReject BusAccess :=
  if nbits = 32 then
    if w < 2 ^ 32 then .ok (.write32 cmdAddr (BitVec.ofNat 32 w)) else .error .notACommandWord
  else if nbits ≤ 16 then
    if w < 2 ^ 12 then
      .ok (if nbits < 12 ∨ w = 0x024 then .read32 (BitVec.ofNat 12 w) else .read8 (BitVec.ofNat 12 w))
    else .error .notABusAddress
  else .error .noRowOfThisSize

/-- The instruction the decoder reads from a word numbered as opcode_table.json numbers it. -/
def decodeTableWord (nbits w : Nat) : Option Instr :=
  match tableAccess nbits w with
  | .ok a => some (decodeAccess a)
  | .error _ => none

end Sys2Proof
end

