-- ==== Sys2Proof/Machine/Arith.lean ====
section
/-! DEFINITION. The integer operators of 00_scope.md rule R11 that are not Lean's own, and bit packing. `a // b` is
`/` (every divisor is positive), and `v mod 2^n` is `BitVec.ofNat n` or `BitVec.ofInt n`. -/

namespace Sys2Proof.Machine

/-- asr(v, n) = floor(v / 2^n); it rounds toward minus infinity. -/
def asr (v : Int) (n : Nat) : Int := v / (2 ^ n : Nat)

/-- clamp(v, lo, hi) = min(hi, max(lo, v)). -/
def clamp (v lo hi : Int) : Int := min hi (max lo v)

/-- The number whose bit i is the i-th entry of the list. -/
def bitsToNat : List Bool → Nat
  | [] => 0
  | b :: bs => (if b then 1 else 0) + 2 * bitsToNat bs

end Sys2Proof.Machine
end

