-- ==== Sys2Proof/Machine/Banks.lean ====
section
/-! DEFINITION. Fixed numbers of like things: a bank of n records (channels, voices) and the four operators of a
voice. Plain data with no invariant to carry: a bank of n always has n entries. -/

namespace Sys2Proof.Machine

/-- Exactly `n` records, numbered from 0. -/
structure Bank (α : Type) (n : Nat) where
  list : List α
  length_eq : list.length = n
deriving DecidableEq, Repr

/-- `f` on the first `k` entries of a list, the rest kept. -/
def mapFirst {α : Type} (f : α → α) : Nat → List α → List α
  | k + 1, x :: xs => f x :: mapFirst f k xs
  | _, xs => xs

/-- `f` on the first `k` entries in ascending order, a running value passed along, the rest kept: a
`for i in 0..k-1` loop of the spec (00_scope.md R13). -/
def mapAccumFirst {α β : Type} (f : α → β → α × β) : Nat → List α → β → List α × β
  | k + 1, x :: xs, acc =>
    let r := f x acc
    let rs := mapAccumFirst f k xs r.2
    (r.1 :: rs.1, rs.2)
  | _, xs, acc => (xs, acc)

theorem length_mapFirst {α : Type} (f : α → α) (k : Nat) (xs : List α) :
    (mapFirst f k xs).length = xs.length := by
  induction xs generalizing k with
  | nil => cases k <;> rfl
  | cons x xs ih => cases k <;> simp [mapFirst, ih]

theorem length_mapAccumFirst {α β : Type} (f : α → β → α × β) (k : Nat) (xs : List α) (acc : β) :
    (mapAccumFirst f k xs acc).1.length = xs.length := by
  induction xs generalizing k acc with
  | nil => cases k <;> rfl
  | cons x xs ih => cases k <;> simp [mapAccumFirst, ih]

/-- `n` copies of one record. -/
def Bank.fill {α : Type} (n : Nat) (x : α) : Bank α n := ⟨List.replicate n x, List.length_replicate⟩

/-- Entry `i`, where there is one. -/
def Bank.get? {α : Type} {n : Nat} (b : Bank α n) (i : Nat) : Option α := b.list[i]?

/-- Entry `i` replaced by `f` of it; no change where there is none. -/
def Bank.modify {α : Type} {n : Nat} (b : Bank α n) (i : Nat) (f : α → α) : Bank α n :=
  ⟨b.list.modify i f, by rw [List.length_modify]; exact b.length_eq⟩

/-- The first `k` entries changed by `f`. -/
def Bank.mapFirst {α : Type} {n : Nat} (f : α → α) (k : Nat) (b : Bank α n) : Bank α n :=
  ⟨Machine.mapFirst f k b.list, by rw [length_mapFirst]; exact b.length_eq⟩

/-- The loop over the first `k` entries with a running value. -/
def Bank.mapAccumFirst {α β : Type} {n : Nat} (f : α → β → α × β) (k : Nat) (b : Bank α n) (acc : β) :
    Bank α n × β :=
  let r := Machine.mapAccumFirst f k b.list acc
  (⟨r.1, by rw [length_mapAccumFirst]; exact b.length_eq⟩, r.2)

/-- The NOPS = 4 operators OP1 to OP4 (00_scope.md R6, R14). -/
inductive OpIx where
  | op1 | op2 | op3 | op4
deriving DecidableEq, Repr

/-- The operators in increasing order. -/
def OpIx.all : List OpIx := [.op1, .op2, .op3, .op4]

/-- The number k of OPk, in 1..4. -/
def OpIx.num : OpIx → Nat
  | .op1 => 1
  | .op2 => 2
  | .op3 => 3
  | .op4 => 4

/-- One value for each of the four operators. -/
structure Quad (α : Type) where
  op1 : α
  op2 : α
  op3 : α
  op4 : α
deriving DecidableEq, Repr

/-- The value of operator k. -/
def Quad.get {α : Type} (q : Quad α) : OpIx → α
  | .op1 => q.op1
  | .op2 => q.op2
  | .op3 => q.op3
  | .op4 => q.op4

/-- The value of operator k replaced. -/
def Quad.set {α : Type} (q : Quad α) (k : OpIx) (x : α) : Quad α :=
  match k with
  | .op1 => { q with op1 := x }
  | .op2 => { q with op2 := x }
  | .op3 => { q with op3 := x }
  | .op4 => { q with op4 := x }

/-- One value for each operator, from its number. -/
def Quad.of {α : Type} (f : OpIx → α) : Quad α := ⟨f .op1, f .op2, f .op3, f .op4⟩

/-- The same value for every operator. -/
def Quad.fill {α : Type} (x : α) : Quad α := ⟨x, x, x, x⟩

end Sys2Proof.Machine
end

