-- ==== Sys2Proof/Machine/State.lean ====
section
/-! DEFINITION. The state of the block (10_state.md), the events of its host, and the state after reset
(70_reset_and_hazards.md R215). Plain data throughout. -/

namespace Sys2Proof.Machine

/-- The phases of an envelope (10_state.md R43). -/
inductive EnvPhase where
  | idle | attack | decay | sustain | release
deriving DecidableEq, Repr

/-- A decoded operator record (30_encoding.md R78, 10_state.md R35). -/
structure OpParams where
  level  : BitVec 7
  fixed  : Bool
  coarse : BitVec 4
  fine   : BitVec 7
  detune : BitVec 7
  opA    : BitVec 7
  opD    : BitVec 7
  opS    : BitVec 7
  loop   : Bool
deriving DecidableEq, Repr

/-- SNAP, a decoded patch record (30_encoding.md R77, 10_state.md R35). -/
structure Snap where
  alg       : BitVec 4
  volume    : BitVec 7
  feedback  : BitVec 7
  glide     : BitVec 7
  envA      : BitVec 7
  envD      : BitVec 7
  envS      : BitVec 7
  envR      : BitVec 7
  lfoSpeed  : BitVec 7
  lfoAttack : BitVec 7
  lfoPmd    : BitVec 7
  op        : Quad OpParams
deriving DecidableEq, Repr

/-- A voice V[c][i] (10_state.md R35 to R42). -/
structure Voice where
  /-- SNAP, KEY, VEL: R35. -/
  snap     : Snap
  key      : BitVec 7
  vel      : BitVec 7
  /-- V[c][i].DUR, the remaining duration in samples: R36. -/
  dur      : Word
  /-- AMP_PH and AMP_E, the overall envelope: R37. -/
  ampPh    : EnvPhase
  ampE     : BitVec 21
  /-- OP_PH[k] and OP_E[k], the operator envelopes: R38. -/
  opPh     : Quad EnvPhase
  opE      : Quad (BitVec 21)
  /-- PHASE[k], the phase accumulators: R39. -/
  phase    : Quad (BitVec 32)
  /-- FB_PREV, signed: R40. -/
  fbPrev   : BitVec 13
  /-- The glide registers: R41. -/
  gFrom    : BitVec 33
  gTo      : BitVec 33
  gLen     : BitVec 14
  gPos     : BitVec 14
  base     : BitVec 33
  /-- The LFO registers: R42. -/
  lfoPhase : BitVec 32
  lfoAge   : BitVec 13
deriving DecidableEq, Repr

/-- A channel: its pool size ALLOC[c] (10_state.md R34) and its voices. Those with an index below ALLOC are
allocated. -/
structure Channel where
  alloc  : BitVec 5
  voices : Bank Voice Config.VPC
deriving DecidableEq, Repr

/-- Patch RAM: (bus address, byte) pairs in the canonical form of Memory.wf (Ops.lean). -/
abbrev Memory := List Host.Cell

/-- What an access answers on the bus (20_memory.md R50, R57). The MODEL's own record of it (log 2). -/
inductive BusResponse where
  /-- No access has been answered since reset. -/
  | none
  /-- The data of a 32-bit read. -/
  | data32 (d : Word)
  /-- The data of an 8-bit read. -/
  | data8 (d : Byte)
  /-- A write that completed. -/
  | done
  /-- The error response of a BusError. It carries no data. -/
  | busError
deriving DecidableEq, Repr

/-- What the host does to the block. -/
inductive HostEvent where
  /-- One bus access (R50). -/
  | access (a : BusAccess)
  /-- The reset input (R215). -/
  | reset
  /-- Two accesses at once, which one port cannot take: 93_implementation_defined.md I19 (log 9). -/
  | overlap (a b : BusAccess)
deriving DecidableEq, Repr

/-- The command error codes of 60_exceptions.md R195. E_NONE is the code 0 of a clear record. -/
inductive ErrCode where
  | opcode | rsvd | channel | patch | tempo | duration | patchVal | pool
deriving DecidableEq, Repr

/-- The state of the block, and the two fields of the model's own that tie it to its host. -/
structure State where
  /-- DUR: R24. -/
  dur         : Word
  /-- ERR.CODE and ERR.MORE: R26. -/
  errCode     : BitVec 4
  errMore     : Bool
  /-- ERR_CMD: R28. -/
  errCmd      : Word
  /-- TEMPO.BPM: R27. -/
  tempo       : BitVec 16
  /-- SAMPLE_COUNT: R29. -/
  sampleCount : Word
  /-- LAST_SAMPLE: R31. -/
  lastSample  : Byte
  /-- ALLOC[c] and V[c][i]: R34 to R42. -/
  channels    : Bank Channel Config.NCH
  /-- Patch RAM: R44. -/
  patchRam    : Memory
  /-- The model's own: what the host has issued and the block has not served, oldest first (log 1). -/
  pending     : List HostEvent
  /-- The model's own: the answer to the last access (log 2). -/
  response    : BusResponse
deriving DecidableEq, Repr

/-- Why the machine stops. -/
inductive Fault where
  /-- Raised by step, on a host schedule that overlaps two accesses. 93_implementation_defined.md I19: "stuck: an
  overlapping access has no step in the model". Safe: the model stops where the spec admits no schedule. No
  instruction raises it. -/
  | overlappingAccess
deriving DecidableEq, Repr

/-- Why an instruction has no meaning. -/
inductive Refusal where
  /-- Raised by an arm of exec whose instruction is not modelled yet. No arm raises it now. Safe. -/
  | notModelled (mnemonic : String)
deriving DecidableEq, Repr

/-- The reset value of an operator's record: every field 0 (R35). -/
def OpParams.zero : OpParams := ⟨0, false, 0, 0, 0, 0, 0, 0, false⟩

/-- The reset value of SNAP: every field 0 (R35). -/
def Snap.zero : Snap := ⟨0, 0, 0, 0, 0, 0, 0, 0, 0, 0, 0, Quad.fill OpParams.zero⟩

/-- A voice at its reset values (10_state.md R47). -/
def Voice.reset : Voice where
  snap := Snap.zero
  key := 0
  vel := 0
  dur := 0
  ampPh := .idle
  ampE := 0
  opPh := Quad.fill .idle
  opE := Quad.fill 0
  phase := Quad.fill 0
  fbPrev := 0
  gFrom := 0
  gTo := 0
  gLen := 0
  gPos := 0
  base := 0
  lfoPhase := 0
  lfoAge := 0

/-- A channel at its reset values: ALLOC 0 (R34). -/
def Channel.reset : Channel := ⟨0, Bank.fill Config.VPC Voice.reset⟩

/-- The state after reset (70_reset_and_hazards.md R215, 10_state.md R47). Patch RAM lists nothing: every byte
reads as its power-up value (R216, log 4). -/
def State.reset : State where
  dur := 0
  errCode := 0
  errMore := false
  errCmd := 0
  tempo := BitVec.ofNat 16 Config.TEMPO_RESET
  sampleCount := 0
  lastSample := 128
  channels := Bank.fill Config.NCH Channel.reset
  patchRam := []
  pending := []
  response := .none

end Sys2Proof.Machine
end

