-- ==== Sys2Proof/Machine/Ops.lean ====
section
/-! DEFINITION. The operations every instruction shares: patch RAM, the address map, the answer on the bus, the two
kinds of error with what each changes, and access to a channel. -/

namespace Sys2Proof.Machine

/-! ### Address map (20_memory.md R52) -/

/-- The regions of the bus address space. -/
inductive Region where
  | registers | patchRam | unmapped
deriving DecidableEq, Repr

/-- Which region an address lies in (R52). -/
def regionOf (addr : Addr) : Region :=
  if addr.toNat < 0x100 then .registers
  else if Config.patchBase ≤ addr.toNat ∧ addr.toNat < Config.patchBase + Config.NPATCH * Config.slotSize then .patchRam
  else .unmapped

/-- A multiple of 4. -/
def aligned (addr : Addr) : Bool := addr.toNat % 4 == 0

/-- Which 32-bit accesses are a BusError (R53, R56, R57; 60_exceptions.md R201). -/
def busFault32 (addr : Addr) : Bool :=
  match regionOf addr with
  | .registers => !aligned addr
  | .patchRam => !aligned addr
  | .unmapped => true

/-- Which 8-bit accesses are a BusError (R53, R56, R57; 60_exceptions.md R201). -/
def busFault8 (addr : Addr) : Bool :=
  match regionOf addr with
  | .registers => true
  | .patchRam => false
  | .unmapped => true

/-! ### Patch RAM (10_state.md R44, 20_memory.md R55) -/

/-- The byte at an address: the one listed, else its power-up value (70_reset_and_hazards.md R216, log 4). -/
def Memory.read : Memory → Nat → Byte
  | [], a => Config.powerUpByte a
  | (b, v) :: rest, a => if a = b then v else Memory.read rest a

/-- The byte at an address replaced, in canonical form: addresses rising, and no entry that says what an unlisted
address reads as anyway. -/
def Memory.write : Memory → Nat → Byte → Memory
  | [], a, x => if x = Config.powerUpByte a then [] else [(a, x)]
  | (b, v) :: rest, a, x =>
    if a < b then (if x = Config.powerUpByte a then (b, v) :: rest else (a, x) :: (b, v) :: rest)
    else if a = b then (if x = Config.powerUpByte a then rest else (a, x) :: rest)
    else (b, v) :: Memory.write rest a x

/-- MemRead(addr, n): n bytes as an unsigned number, little-endian (00_scope.md R13). -/
def Memory.readBytes (m : Memory) (a : Nat) : Nat → Nat
  | 0 => 0
  | n + 1 => (m.read a).toNat + 256 * Memory.readBytes m (a + 1) n

/-- MemWrite(addr, n, v): the n bytes of v, little-endian (00_scope.md R13). -/
def Memory.writeBytes (m : Memory) (a : Nat) : Nat → Nat → Memory
  | 0, _ => m
  | n + 1, v => Memory.writeBytes (m.write a (BitVec.ofNat 8 v)) (a + 1) n (v / 256)

/-- Addresses strictly rising, from `lo` on. -/
def Memory.rising : Nat → Memory → Bool
  | _, [] => true
  | lo, (a, _) :: rest => decide (lo ≤ a) && Memory.rising (a + 1) rest

/-- The canonical form of patch RAM: addresses strictly rising, each in patch RAM, no entry equal to what an
unlisted address reads as. -/
def Memory.wf (m : Memory) : Bool :=
  Memory.rising Config.patchBase m &&
  m.all fun cell =>
    decide (cell.1 < Config.patchBase + Config.NPATCH * Config.slotSize) && cell.2 != Config.powerUpByte cell.1

/-! ### The answer on the bus (R50) -/

/-- The access is answered. -/
def State.respond (s : State) (r : BusResponse) : State := { s with response := r }

/-- BusError: the host receives an error response and no state of the block changes (R57, R201, log 3). This and
raiseError are the only exceptions of the block; neither has an entry or a handler (60_exceptions.md R208). -/
def State.raiseBusError (s : State) : State := s.respond .busError

/-! ### Command errors (60_exceptions.md R195 to R199) -/

/-- The code of R195. -/
def ErrCode.code : ErrCode → BitVec 4
  | .opcode => 1
  | .rsvd => 2
  | .channel => 3
  | .patch => 4
  | .tempo => 5
  | .duration => 6
  | .patchVal => 7
  | .pool => 8

/-- raise Error(code) for the command word `w`: the error record keeps the first error, and MORE says that a later
one was dropped (R198). Nothing else changes (R197). -/
def State.raiseError (s : State) (e : ErrCode) (w : Word) : State :=
  if s.errCode = 0 then { s with errCode := e.code, errCmd := w } else { s with errMore := true }

/-- The error record cleared (R199): the one way out of an error. -/
def State.clearError (s : State) : State := { s with errCode := 0, errMore := false, errCmd := 0 }

/-- The first check that fails, in the order listed (R196). -/
def firstError : List (Bool × ErrCode) → Option ErrCode
  | [] => none
  | (failed, e) :: rest => if failed then some e else firstError rest

/-- A CMD write of word `w` (40_commands.md R90): the checks in order; the first that fails is raised and nothing
else happens; if all pass, the command's effect. The bus access itself completes either way (R198: "a CMD write
returns no status and has no error response on the bus"). -/
def runCommand (w : Word) (checks : List (Bool × ErrCode)) (effect : State → State) (s : State) :
    Host.Outcome State Fault Refusal :=
  .next (State.respond (match firstError checks with
    | some e => s.raiseError e w
    | none => effect s) .done)

/-! ### Channels and voices -/

/-- Channel c, where c < NCH. -/
def State.channel? (s : State) (c : Nat) : Option Channel := s.channels.get? c

/-- Channel c changed. -/
def State.modifyChannel (s : State) (c : Nat) (f : Channel → Channel) : State :=
  { s with channels := s.channels.modify c f }

/-- Every channel changed, in ascending order. -/
def State.mapChannels (s : State) (f : Channel → Channel) : State :=
  { s with channels := s.channels.mapFirst f Config.NCH }

/-- The allocated voices V[c][0] to V[c][ALLOC[c]-1] (10_state.md R34). -/
def Channel.allocated (ch : Channel) : List Voice := ch.voices.list.take ch.alloc.toNat

/-- `for i in 0..ALLOC[c]-1` over the voices of a channel. -/
def Channel.mapAllocated (ch : Channel) (f : Voice → Voice) : Channel :=
  { ch with voices := ch.voices.mapFirst f ch.alloc.toNat }

/-- Voice i of a channel changed. -/
def Channel.modifyVoice (ch : Channel) (i : Nat) (f : Voice → Voice) : Channel :=
  { ch with voices := ch.voices.modify i f }

end Sys2Proof.Machine
end

