-- ==== Sys2Proof/Machine/Operands.lean ====
section
/-! DEFINITION. The operands of the commands: the patch record in a slot (30_encoding.md R77 to R79), the duration
(R75) and its conversion from tracker ticks (40_commands.md R101). -/

namespace Sys2Proof.Machine

/-- The byte at offset `off` of patch slot `slot` (10_state.md R44). -/
def State.patchByte (s : State) (slot off : Nat) : Byte :=
  s.patchRam.read (Config.patchBase + Config.slotSize * slot + off)

/-- The byte offset of operator k's record (R78). -/
def opOffset (k : OpIx) : Nat := 16 + 8 * (k.num - 1)

/-- The operator record at byte offset b, decoded (R78). -/
def decodeOp (byte : Nat → Byte) (b : Nat) : OpParams where
  level := (byte b).setWidth 7
  fixed := (byte (b + 1)).getLsbD 7
  coarse := (byte (b + 1)).extractLsb' 0 4
  fine := (byte (b + 2)).setWidth 7
  detune := (byte (b + 3)).setWidth 7
  opA := (byte (b + 4)).setWidth 7
  opD := (byte (b + 5)).setWidth 7
  opS := (byte (b + 6)).setWidth 7
  loop := (byte (b + 7)).getLsbD 0

/-- decode(bytes), the snapshot of a slot (40_commands.md R102, 30_encoding.md R77). It is used only of a legal
slot, whose fields of 7 bits have bit 7 clear. -/
def decodePatch (byte : Nat → Byte) : Snap where
  alg := (byte 0).setWidth 4
  volume := (byte 1).setWidth 7
  feedback := (byte 2).setWidth 7
  glide := (byte 3).setWidth 7
  envA := (byte 4).setWidth 7
  envD := (byte 5).setWidth 7
  envS := (byte 6).setWidth 7
  envR := (byte 7).setWidth 7
  lfoSpeed := (byte 8).setWidth 7
  lfoAttack := (byte 9).setWidth 7
  lfoPmd := (byte 10).setWidth 7
  op := {
    op1 := decodeOp byte (opOffset .op1)
    op2 := decodeOp byte (opOffset .op2)
    op3 := decodeOp byte (opOffset .op3)
    op4 := decodeOp byte (opOffset .op4) }

/-- The operator record at byte offset b is legal (R78, R79). -/
def opLegal (byte : Nat → Byte) (b : Nat) : Bool :=
  decide ((byte b).toNat ≤ 100) && (byte (b + 1)).extractLsb' 4 3 == 0 && decide ((byte (b + 2)).toNat ≤ 99) &&
  decide ((byte (b + 3)).toNat ≤ 100) && decide ((byte (b + 4)).toNat ≤ 100) && decide ((byte (b + 5)).toNat ≤ 100) &&
  decide ((byte (b + 6)).toNat ≤ 100) && (byte (b + 7)).extractLsb' 1 7 == 0

/-- A slot is legal (R79): ALG in 1..11, bytes 1 to 10 at most 100, every operator record legal. The reserved bytes
take no part (R80). -/
def patchLegal (byte : Nat → Byte) : Bool :=
  decide (1 ≤ (byte 0).toNat) && decide ((byte 0).toNat ≤ Config.NALG) &&
  ([1, 2, 3, 4, 5, 6, 7, 8, 9, 10].all fun off => decide ((byte off).toNat ≤ 100)) &&
  (OpIx.all.all fun k => opLegal byte (opOffset k))

/-- The duration that means "held open until an explicit noteOff" (R75). -/
abbrev indefinite : Word := 0xFFFFFFFF#32

/-- ticksFactor, the samples of one beat, floored (40_commands.md R101). -/
def ticksFactor (bpm : Nat) : Nat := Config.FS * 60 / bpm

/-- ticks_to_samples(bpm, t) (40_commands.md R101). -/
def ticksToSamples (bpm t : Nat) : Nat := min (ticksFactor bpm * (t + 1) / 32) 0xFFFFFFFE

/-- NOTE_ON_T's duration in samples (40_commands.md R93). -/
def State.timedDuration (s : State) : Word :=
  if s.dur = indefinite then indefinite else BitVec.ofNat 32 (ticksToSamples s.tempo.toNat s.dur.toNat)

end Sys2Proof.Machine
end

