-- ==== Sys2Proof/Machine/Envelope.lean ====
section
/-! DEFINITION. The envelope generators (42_envelopes.md). A level is a number in [0, EFULL]. -/

namespace Sys2Proof.Machine

/-- step(t), the change of a level per tick for a time parameter t in 1..100 (R140). -/
def envStep (t : Nat) : Nat := max 1 (Config.EFULL / (t * Config.TIME_UNIT))

/-- sus(S), the sustain target level (R141). -/
def sus (level : Nat) : Nat := Config.EFULL * level / 100

/-- One tick of a rise to EFULL with time parameter t; 0 is instant (R142, R147). -/
def envRise (t e : Nat) : Nat := if t = 0 then Config.EFULL else min Config.EFULL (e + envStep t)

/-- One tick of a fall to `target` with time parameter t; 0 is instant (R143, R148, R150). -/
def envFall (t target e : Nat) : Nat := if t = 0 then target else max target (e - envStep t)

/-- The phase and level of an envelope. -/
abbrev EnvState := EnvPhase × BitVec 21

/-- ATTACK: the level rises, and at EFULL the phase becomes DECAY (R142, R147). -/
def envAttack (t : BitVec 7) (e : BitVec 21) : EnvState :=
  let e' := envRise t.toNat e.toNat
  (if e' = Config.EFULL then .decay else .attack, BitVec.ofNat 21 e')

/-- DECAY or RELEASE: the level falls to a target, and there the phase becomes `after` (R143, R148, R150). -/
def envFallTo (t : BitVec 7) (target : Nat) (during after : EnvPhase) (e : BitVec 21) : EnvState :=
  let e' := envFall t.toNat target e.toNat
  (if e' = target then after else during, BitVec.ofNat 21 e')

/-- op_env_step: one tick of an operator envelope, by its phase at the start of the tick (R142 to R146). -/
def opEnvStep (p : OpParams) (ph : EnvPhase) (e : BitVec 21) : EnvState :=
  match ph with
  | .attack => envAttack p.opA e
  | .decay => envFallTo p.opD (sus p.opS.toNat) .decay (if p.loop then .attack else .sustain) e
  | .sustain => (.sustain, e)
  | .release => (.release, e)
  | .idle => (.idle, 0)

/-- amp_env_step: one tick of the overall envelope, by its phase at the start of the tick (R147 to R151). -/
def ampEnvStep (p : Snap) (ph : EnvPhase) (e : BitVec 21) : EnvState :=
  match ph with
  | .attack => envAttack p.envA e
  | .decay => envFallTo p.envD (sus p.envS.toNat) .decay .sustain e
  | .sustain => (.sustain, e)
  | .release => envFallTo p.envR 0 .release .idle e
  | .idle => (.idle, 0)

/-- The phase of an envelope after release(): ATTACK, DECAY and SUSTAIN become RELEASE (41_voice_engine.md R111). -/
def EnvPhase.released : EnvPhase → EnvPhase
  | .attack => .release
  | .decay => .release
  | .sustain => .release
  | .release => .release
  | .idle => .idle

end Sys2Proof.Machine
end

