-- ==== Sys2Proof/Machine/Flags.lean ====
section
/-! DEFINITION. The status bits: AT_END and ALL_IDLE of STATUS, the words of ERR, CH_STATUS and CH_HELD, and the
voice predicates they are computed from (10_state.md R25, R26, R32, R33; 43_mixer.md R163, R164). -/

namespace Sys2Proof.Machine

/-- released(V): the overall envelope is IDLE (41_voice_engine.md R112). -/
def Voice.released (v : Voice) : Bool := v.ampPh == .idle

/-- A voice is free iff its duration counter is 0 (10_state.md R36). -/
def Voice.free (v : Voice) : Bool := v.dur == 0

/-- AT_END (43_mixer.md R163). -/
def State.atEnd (s : State) : Bool :=
  s.channels.list.all fun ch => ch.allocated.all fun v => v.released || v.free

/-- ALL_IDLE (43_mixer.md R164). -/
def State.allIdle (s : State) : Bool :=
  s.channels.list.all fun ch => ch.allocated.all Voice.released

/-- STATUS: bit 0 AT_END, bit 1 ALL_IDLE (10_state.md R25). -/
def State.statusWord (s : State) : Word := BitVec.ofNat 32 (bitsToNat [s.atEnd, s.allIdle])

/-- ERR: bits 3:0 CODE, bit 8 MORE (10_state.md R26). -/
def State.errWord (s : State) : Word :=
  BitVec.ofNat 32 (s.errCode.toNat + 256 * bitsToNat [s.errMore])

/-- CH_STATUS: bits 4:0 ALLOC, bit 16+i LIVE[i] (10_state.md R32). -/
def Channel.statusWord (ch : Channel) : Word :=
  BitVec.ofNat 32 (ch.alloc.toNat + 65536 * bitsToNat (ch.allocated.map fun v => !v.released))

/-- CH_HELD: bit i HELD[i] (10_state.md R33). -/
def Channel.heldWord (ch : Channel) : Word :=
  BitVec.ofNat 32 (bitsToNat (ch.allocated.map fun v => !v.free))

/-- CONFIG: the parameters (10_state.md R22). -/
def configWord : Word :=
  BitVec.ofNat 32 (Config.NCH + 256 * Config.VPC + 65536 * Config.NPATCH + 16777216 * Config.NALG)

end Sys2Proof.Machine
end

