-- ==== Sys2Proof/Machine/Tables.lean ====
section
/-! DEFINITION. The tables of 44_tables.md: sine, algorithm routing, key increments, fixed increments. -/

namespace Sys2Proof.Machine

/-- QSIN, the quarter wave of 256 entries (R171). -/
def qsinTable : List Nat :=
  [13, 38, 63, 88, 113, 138, 163, 188, 213, 239, 264, 289, 314, 339, 364, 389] ++
  [414, 439, 464, 489, 514, 539, 564, 588, 613, 638, 663, 688, 712, 737, 762, 787] ++
  [811, 836, 860, 885, 909, 934, 958, 983, 1007, 1032, 1056, 1080, 1104, 1128, 1153, 1177] ++
  [1201, 1225, 1249, 1273, 1296, 1320, 1344, 1368, 1391, 1415, 1439, 1462, 1485, 1509, 1532, 1555] ++
  [1579, 1602, 1625, 1648, 1671, 1694, 1717, 1739, 1762, 1785, 1807, 1830, 1852, 1875, 1897, 1919] ++
  [1941, 1964, 1986, 2007, 2029, 2051, 2073, 2094, 2116, 2137, 2159, 2180, 2201, 2223, 2244, 2265] ++
  [2285, 2306, 2327, 2348, 2368, 2389, 2409, 2429, 2449, 2470, 2490, 2509, 2529, 2549, 2569, 2588] ++
  [2608, 2627, 2646, 2665, 2684, 2703, 2722, 2741, 2759, 2778, 2796, 2815, 2833, 2851, 2869, 2887] ++
  [2904, 2922, 2940, 2957, 2974, 2992, 3009, 3026, 3043, 3059, 3076, 3093, 3109, 3125, 3141, 3157] ++
  [3173, 3189, 3205, 3221, 3236, 3251, 3267, 3282, 3297, 3311, 3326, 3341, 3355, 3370, 3384, 3398] ++
  [3412, 3426, 3439, 3453, 3466, 3480, 3493, 3506, 3519, 3532, 3544, 3557, 3569, 3581, 3594, 3606] ++
  [3617, 3629, 3641, 3652, 3663, 3675, 3686, 3696, 3707, 3718, 3728, 3739, 3749, 3759, 3769, 3778] ++
  [3788, 3798, 3807, 3816, 3825, 3834, 3843, 3851, 3860, 3868, 3876, 3884, 3892, 3900, 3908, 3915] ++
  [3922, 3929, 3936, 3943, 3950, 3957, 3963, 3969, 3975, 3981, 3987, 3993, 3998, 4004, 4009, 4014] ++
  [4019, 4023, 4028, 4033, 4037, 4041, 4045, 4049, 4053, 4056, 4059, 4063, 4066, 4069, 4071, 4074] ++
  [4076, 4079, 4081, 4083, 4085, 4087, 4088, 4089, 4091, 4092, 4093, 4093, 4094, 4095, 4095, 4095]

/-- QSIN[i] (R171). -/
def qsin (i : Nat) : Int := (qsinTable.getD i 0 : Nat)

/-- SIN(idx), by quadrant (R170). -/
def sin (idx : BitVec 10) : Int :=
  let r := idx.toNat % 256
  match idx.toNat / 256 with
  | 0 => qsin r
  | 1 => qsin (255 - r)
  | 2 => -qsin r
  | _ => -qsin (255 - r)

/-- KEYINC, the base phase increments of the MIDI keys 0 to 127 (R174). -/
def keyIncTable : List Nat :=
  [4389349, 4650353, 4926877, 5219845, 5530233, 5859077, 6207476, 6576592] ++
  [6967657, 7381975, 7820930, 8285987, 8778697, 9300706, 9853754, 10439689] ++
  [11060465, 11718155, 12414953, 13153184, 13935313, 14763950, 15641860, 16571974] ++
  [17557394, 18601411, 19707509, 20879378, 22120931, 23436310, 24829905, 26306368] ++
  [27870626, 29527900, 31283720, 33143947, 35114789, 37202823, 39415018, 41758757] ++
  [44241862, 46872620, 49659811, 52612737, 55741253, 59055800, 62567441, 66287895] ++
  [70229578, 74405646, 78830036, 83517514, 88483724, 93745240, 99319622, 105225474] ++
  [111482506, 118111601, 125134882, 132575789, 140459156, 148811292, 157660072, 167035027] ++
  [176967447, 187490479, 198639243, 210450947, 222965012, 236223201, 250269764, 265151578] ++
  [280918312, 297622584, 315320144, 334070055, 353934894, 374980958, 397278486, 420901894] ++
  [445930023, 472446403, 500539528, 530303157, 561836623, 595245168, 630640287, 668140110] ++
  [707869788, 749961916, 794556973, 841803789, 891860047, 944892805, 1001079055, 1060606313] ++
  [1123673247, 1190490335, 1261280574, 1336280220, 1415739577, 1499923833, 1589113945, 1683607578] ++
  [1783720094, 1889785610, 2002158110, 2121212627, 2247346494, 2380980670, 2522561148, 2672560440] ++
  [2831479154, 2999847666, 3178227890, 3367215155, 3567440188, 3779571220, 4004316221, 4242425254] ++
  [4494692987, 4761961340, 5045122297, 5345120880, 5662958307, 5999695331, 6356455781, 6734430311]

/-- KEYINC[k] (R174): 33 bits. -/
def keyInc (k : BitVec 7) : BitVec 33 := BitVec.ofNat 33 (keyIncTable.getD k.toNat 0)

/-- FIXINC(c, f), the phase increment of a fixed-mode operator before it is reduced mod 2^32 (R175). -/
def fixInc (c f : Nat) : Nat := 2 ^ c * (100 + f) * 2 ^ 32 / 800000

/-- A row of ALG_TABLE: EDGES, CARRIERS, FBOP (R172). An edge (j, k) says that OPj modulates OPk. -/
structure AlgRow where
  edges    : List (OpIx × OpIx)
  carriers : List OpIx
  fbop     : OpIx
deriving DecidableEq, Repr

/-- ALG_TABLE of FMV-1: algorithms 1 to 11 in order (R173). -/
def algTable : List AlgRow := [
  ⟨[(.op1, .op2), (.op2, .op3), (.op3, .op4)], [.op4], .op1⟩,
  ⟨[(.op1, .op3), (.op2, .op3), (.op3, .op4)], [.op4], .op1⟩,
  ⟨[(.op1, .op4), (.op2, .op3), (.op3, .op4)], [.op4], .op1⟩,
  ⟨[(.op1, .op2), (.op2, .op4), (.op3, .op4)], [.op4], .op1⟩,
  ⟨[(.op1, .op2), (.op3, .op4)], [.op2, .op4], .op1⟩,
  ⟨[(.op1, .op2), (.op1, .op3), (.op1, .op4)], [.op2, .op3, .op4], .op1⟩,
  ⟨[(.op1, .op2)], [.op2, .op3, .op4], .op1⟩,
  ⟨[], [.op1, .op2, .op3, .op4], .op1⟩,
  ⟨[(.op1, .op2), (.op2, .op3)], [.op3, .op4], .op1⟩,
  ⟨[(.op1, .op2), (.op1, .op3), (.op2, .op4), (.op3, .op4)], [.op4], .op1⟩,
  ⟨[(.op1, .op2), (.op2, .op3), (.op2, .op4)], [.op3, .op4], .op1⟩]

/-- The row of algorithm a. Only a = 1..11 has one, and only a legal patch is ever rendered (30_encoding.md R79); of
any other a the spec states nothing, and the model takes a row with no edge and no carrier, reached in no reachable
state (DESIGN CHOICE, log 10). -/
def algRow (a : BitVec 4) : AlgRow :=
  match a.toNat with
  | 0 => ⟨[], [], .op1⟩
  | n + 1 => algTable.getD n ⟨[], [], .op1⟩

end Sys2Proof.Machine
end

