-- ==== Sys2Proof/Machine/Voice.lean ====
section
/-! DEFINITION. The FM voice engine (41_voice_engine.md): trigger, release and render, with the helpers of render
one definition each. -/

namespace Sys2Proof.Machine

/-! ### Trigger and release (R110, R111) -/

/-- Whether a note triggered on this voice glides: "a previous note was sounding" and the new patch's GLIDE is not 0
(R110). -/
def Voice.glides (v : Voice) (p : Snap) : Bool := v.ampPh != .idle && p.glide != 0

/-- trigger(V, P, k, v): the voice bound to a new note. DUR is left to the calling command (R110). -/
def Voice.trigger (v : Voice) (p : Snap) (key vel : BitVec 7) : Voice where
  snap := p
  key := key
  vel := vel
  dur := v.dur
  ampPh := .attack
  ampE := 0
  opPh := Quad.fill .attack
  opE := Quad.fill 0
  phase := Quad.fill 0
  fbPrev := 0
  gFrom := if v.glides p then v.base else keyInc key
  gTo := keyInc key
  gLen := if v.glides p then BitVec.ofNat 14 (p.glide.toNat * Config.TIME_UNIT) else 0
  gPos := 0
  base := if v.glides p then v.base else keyInc key
  lfoPhase := 0
  lfoAge := 0

/-- release(V): every envelope in ATTACK, DECAY or SUSTAIN goes to RELEASE; levels are unchanged (R111). -/
def Voice.release (v : Voice) : Voice :=
  { v with
    ampPh := v.ampPh.released
    opPh := Quad.of fun k => (v.opPh.get k).released }

/-! ### Glide (R114) -/

/-- The base increment of this tick. -/
def Voice.glideBase (v : Voice) : Nat :=
  let a := v.gFrom.toNat
  let b := v.gTo.toNat
  if v.gLen.toNat ≤ v.gPos.toNat then b
  else if a ≤ b then a + (b - a) * v.gPos.toNat / v.gLen.toNat
  else a - (a - b) * v.gPos.toNat / v.gLen.toNat

/-- glide_step: BASE takes this tick's base increment, and G_POS advances to G_LEN and stops. -/
def Voice.glideStep (v : Voice) : Voice :=
  { v with
    base := BitVec.ofNat 33 v.glideBase
    gPos := if v.gLen.toNat ≤ v.gPos.toNat then v.gPos else BitVec.ofNat 14 (v.gPos.toNat + 1) }

/-! ### LFO (R115, R116) -/

/-- ramp(V), in [0, 256] (R115). -/
def Voice.lfoRamp (v : Voice) : Nat :=
  let la := v.snap.lfoAttack.toNat * Config.TIME_UNIT
  if la = 0 then 256 else min v.lfoAge.toNat la * 256 / la

/-- M, the LFO modulation factor of this tick (R116). -/
def Voice.lfoMod (v : Voice) : Int :=
  if v.snap.lfoSpeed = 0 then 0
  else sin (v.lfoPhase.extractLsb' 22 10) * (v.snap.lfoPmd.toNat : Int) * (v.lfoRamp : Int)

/-- The LFO's registers after this tick (R116). -/
def Voice.lfoStep (v : Voice) : Voice :=
  { v with
    lfoPhase := BitVec.ofNat 32 (v.lfoPhase.toNat + v.snap.lfoSpeed.toNat * Config.LFO_INC_UNIT)
    lfoAge := BitVec.ofNat 13 (min (v.lfoAge.toNat + 1) Config.LFO_AGE_MAX) }

/-! ### Envelopes of a voice -/

/-- amp_env_step on the voice (42_envelopes.md section 3). -/
def Voice.ampStep (v : Voice) : Voice :=
  { v with ampPh := (ampEnvStep v.snap v.ampPh v.ampE).1, ampE := (ampEnvStep v.snap v.ampPh v.ampE).2 }

/-- op_env_step of operator k on the voice's registers (42_envelopes.md section 2). -/
def Voice.opEnv (v : Voice) (k : OpIx) : EnvState := opEnvStep (v.snap.op.get k) (v.opPh.get k) (v.opE.get k)

/-- `for k in 1..4: op_env_step(V, k)`: each operator's envelope reads and writes only its own registers (R113). -/
def Voice.opsStep (v : Voice) : Voice :=
  { v with opPh := Quad.of fun k => (v.opEnv k).1, opE := Quad.of fun k => (v.opEnv k).2 }

/-! ### Operators (R117 to R125) -/

/-- The increment of a ratio-mode operator, before the LFO (R117). -/
def ratioInc (p : OpParams) (base : Nat) : Nat :=
  let r := 100 * p.coarse.toNat + p.fine.toNat
  let inc1 := base * r / 100
  inc1 * (4046 + p.detune.toNat) / 4096 % 2 ^ 32

/-- The increment of a fixed-mode operator, before the LFO (R118). -/
def fixedInc (p : OpParams) : Nat := fixInc p.coarse.toNat p.fine.toNat % 2 ^ 32

/-- The LFO applied to an increment (R119). -/
def lfoInc (inc2 : Nat) (m : Int) : BitVec 32 := BitVec.ofInt 32 ((inc2 : Int) + asr ((inc2 : Int) * m) 31)

/-- op_inc: this tick's increment of an operator (R117, R118, R119). -/
def opInc (p : OpParams) (base : Nat) (m : Int) : BitVec 32 :=
  lfoInc (if p.fixed then fixedInc p else ratioInc p base) m

/-- fb_term(V), the feedback term (R121). -/
def Voice.fbTerm (v : Voice) : Int := asr (v.fbPrev.toInt * ((v.snap.feedback.toNat : Int) - 50)) Config.FB_SHIFT

/-- mod_in(V, k, out), the phase modulation of operator k (R120). -/
def Voice.modIn (v : Voice) (k : OpIx) (out : Quad Int) : Int :=
  let row := algRow v.snap.alg
  ((row.edges.filter fun e => e.2 == k).map fun e => out.get e.1).sum + (if k = row.fbop then v.fbTerm else 0)

/-- phase_index(phase, pm), the sine-table index (R122). -/
def phaseIndex (phase : BitVec 32) (pm : Int) : BitVec 10 :=
  (BitVec.ofInt 32 ((phase.toNat : Int) + pm * (2 ^ Config.MOD_SHIFT : Nat))).extractLsb' 22 10

/-- op_amp(V, k) (R123). -/
def Voice.opAmp (v : Voice) (k : OpIx) : Nat := (v.snap.op.get k).level.toNat * (v.opE.get k).toNat.shiftRight 8 / 100

/-- The output of an operator (R124). -/
def opOut (idx : BitVec 10) (amp : Nat) : Int := asr (sin idx * (amp : Int)) 12

/-- The output of operator k in this tick, from the phase before its increment and the outputs of the operators
before it (R113, R120 to R124). -/
def Voice.operatorOut (v : Voice) (out : Quad Int) (k : OpIx) : Int :=
  opOut (phaseIndex (v.phase.get k) (v.modIn k out)) (v.opAmp k)

/-- out[1..4]: from 0, `for k in 1..4` in increasing k (R113). An operator reads only its own phase, so the phases
can advance after the loop (phaseStep). -/
def Voice.outputs (v : Voice) : Quad Int :=
  OpIx.all.foldl (fun out k => out.set k (v.operatorOut out k)) (Quad.fill 0)

/-- PHASE[k] <- (PHASE[k] + inc) mod 2^32 for every operator (R125). -/
def Voice.phaseStep (v : Voice) (base : Nat) (m : Int) : Voice :=
  { v with phase := Quad.of fun k => v.phase.get k + opInc (v.snap.op.get k) base m }

/-! ### Voice output (R127 to R131) -/

/-- carrier_sum(out) (R127). -/
def carrierSum (p : Snap) (out : Quad Int) : Int := ((algRow p.alg).carriers.map out.get).sum

/-- G, the volume and velocity gain (R129). -/
def Voice.gain (v : Voice) : Nat := v.snap.volume.toNat * v.vel.toNat * 4096 / 12700

/-- voice_amp(V, cs): overall envelope, then gain (R128, R129). -/
def Voice.amp (v : Voice) (cs : Int) : Int :=
  let a1 := asr (cs * (v.ampE.toNat.shiftRight 8 : Nat)) 12
  asr (a1 * (v.gain : Int)) 12

/-- out_map(a2), the saturated 8-bit sample (R130). -/
def outMap (a2 : Int) : Byte := BitVec.ofInt 8 (clamp (128 + asr a2 Config.OUT_SHIFT) 0 255)

/-- idle_cleanup(V) (R131). -/
def Voice.idleCleanup (v : Voice) : Voice :=
  if v.ampPh = .idle then { v with opPh := Quad.fill .idle, opE := Quad.fill 0 } else v

/-! ### Render (R113) -/

/-- The voice after its glide, LFO and envelopes have stepped, before its operators run. -/
def Voice.advance (v : Voice) : Voice := v.glideStep.lfoStep.ampStep.opsStep

/-- FB_PREV <- out[FBOP] (R126). -/
def Voice.feedbackStep (v : Voice) (out : Quad Int) : Voice :=
  { v with fbPrev := BitVec.ofInt 13 (out.get (algRow v.snap.alg).fbop) }

/-- The sample of this tick, of a voice that has advanced: R127 to R130. -/
def Voice.sample (v : Voice) : Byte := outMap (v.amp (carrierSum v.snap v.outputs))

/-- render(V): the voice advanced by one tick, and its output sample (R113). -/
def Voice.render (v : Voice) : Voice × Byte :=
  let a := v.advance
  (((a.phaseStep v.glideBase v.glideStep.lfoMod).feedbackStep a.outputs).idleCleanup, a.sample)

end Sys2Proof.Machine
end

