-- ==== Sys2Proof/Machine/Commands.lean ====
section
/-! DEFINITION. The commands written to CMD (40_commands.md R90 to R97) and the reserved opcodes (30_encoding.md
R74). Each is its checks, in the order of 60_exceptions.md R196, and its effect. -/

namespace Sys2Proof.Machine

/-! ### Voice allocation (R99, R100) -/

/-- The lowest-numbered allocated voice whose duration counter is 0. -/
def Channel.firstFree (ch : Channel) : Option Nat := ch.allocated.findIdx? Voice.free

/-- alloc(c): the index of the voice, and the channel with that voice ready to be triggered; none where the pool is
full (R99). A newly allocated voice has every field at its reset value (R100). -/
def Channel.allocate (ch : Channel) : Option (Nat × Channel) :=
  match ch.firstFree with
  | some i => some (i, ch)
  | none =>
    if ch.alloc.toNat < Config.VPC then
      some (ch.alloc.toNat, { ch.modifyVoice ch.alloc.toNat fun _ => Voice.reset with alloc := ch.alloc + 1 })
    else none

/-- alloc(c) would raise E_POOL. -/
def State.poolFull (s : State) (c : Nat) : Bool :=
  match s.channel? c with
  | some ch => ch.allocate.isNone
  | none => true

/-! ### Starting and releasing notes -/

/-- The voice with a new note of duration d (R92, R93). -/
def Voice.start (v : Voice) (p : Snap) (key vel : BitVec 7) (d : Word) : Voice := { v.trigger p key vel with dur := d }

/-- A note started on a channel: allocation, trigger, duration. With a full pool nothing happens, which the E_POOL
check rules out. -/
def Channel.startNote (ch : Channel) (p : Snap) (key vel : BitVec 7) (d : Word) : Channel :=
  match ch.allocate with
  | some (i, ch') => ch'.modifyVoice i fun v => v.start p key vel d
  | none => ch

/-- The effect of NOTE_ON and NOTE_ON_T once the duration in samples is known. -/
def State.startNote (s : State) (ch slot : BitVec 4) (key vel : BitVec 7) (d : Word) : State :=
  s.modifyChannel ch.toNat fun c => c.startNote (decodePatch (s.patchByte slot.toNat)) key vel d

/-- A voice released and free (R94). -/
def Voice.off (v : Voice) : Voice := { v.release with dur := 0 }

/-- Every allocated voice of a channel released and free (R94). -/
def Channel.off (ch : Channel) : Channel := ch.mapAllocated Voice.off

/-! ### The commands -/

/-- NOP (R91). -/
def execNop (unused : BitVec 28) (s : State) : Host.Outcome State Fault Refusal :=
  runCommand (opWord 0 unused) [(unused != 0, .rsvd)] id s

/-- NOTE_ON's checks (R92). -/
def State.noteOnChecks (s : State) (ch slot : BitVec 4) (rsv : BitVec 6) : List (Bool × ErrCode) :=
  [(rsv != 0, .rsvd),
   (decide (Config.NCH ≤ ch.toNat), .channel),
   (decide (Config.NPATCH ≤ slot.toNat), .patch),
   (s.dur == 0, .duration),
   (!patchLegal (s.patchByte slot.toNat), .patchVal),
   (s.poolFull ch.toNat, .pool)]

/-- NOTE_ON (R92). -/
def execNoteOn (ch slot : BitVec 4) (key vel : BitVec 7) (rsv : BitVec 6) (s : State) :
    Host.Outcome State Fault Refusal :=
  runCommand (noteWord 1 ch slot key vel rsv) (s.noteOnChecks ch slot rsv)
    (fun s => s.startNote ch slot key vel s.dur) s

/-- NOTE_ON_T's checks (R93). -/
def State.noteOnTChecks (s : State) (ch slot : BitVec 4) (rsv : BitVec 6) : List (Bool × ErrCode) :=
  [(rsv != 0, .rsvd),
   (decide (Config.NCH ≤ ch.toNat), .channel),
   (decide (Config.NPATCH ≤ slot.toNat), .patch),
   (s.dur != indefinite && s.tempo == 0, .tempo),
   (s.timedDuration == 0, .duration),
   (!patchLegal (s.patchByte slot.toNat), .patchVal),
   (s.poolFull ch.toNat, .pool)]

/-- NOTE_ON_T (R93). -/
def execNoteOnT (ch slot : BitVec 4) (key vel : BitVec 7) (rsv : BitVec 6) (s : State) :
    Host.Outcome State Fault Refusal :=
  runCommand (noteWord 2 ch slot key vel rsv) (s.noteOnTChecks ch slot rsv)
    (fun s => s.startNote ch slot key vel s.timedDuration) s

/-- NOTE_OFF (R94). -/
def execNoteOff (ch : BitVec 4) (unused : BitVec 24) (s : State) : Host.Outcome State Fault Refusal :=
  runCommand (offWord ch unused)
    [(unused != 0, .rsvd),
     (decide (Config.NCH ≤ ch.toNat), .channel)]
    (fun s => s.modifyChannel ch.toNat Channel.off) s

/-- ALL_OFF (R95). -/
def execAllOff (unused : BitVec 28) (s : State) : Host.Outcome State Fault Refusal :=
  runCommand (opWord 4 unused) [(unused != 0, .rsvd)] (fun s => s.mapChannels Channel.off) s

/-- CLEAR_COUNT (R96). -/
def execClearCount (unused : BitVec 28) (s : State) : Host.Outcome State Fault Refusal :=
  runCommand (opWord 5 unused) [(unused != 0, .rsvd)] (fun s => { s with sampleCount := 0 }) s

/-- The effect of ENGINE_RESET: pools, voices, counter, last sample and error record at their reset values; DUR,
TEMPO and patch RAM keep theirs (R97, 70_reset_and_hazards.md R217). -/
def State.engineReset (s : State) : State :=
  { s.clearError with
    channels := Bank.fill Config.NCH Channel.reset
    sampleCount := 0
    lastSample := 128 }

/-- ENGINE_RESET (R97). -/
def execEngineReset (unused : BitVec 28) (s : State) : Host.Outcome State Fault Refusal :=
  runCommand (opWord 6 unused) [(unused != 0, .rsvd)] State.engineReset s

/-- RESERVED_OP7: E_OPCODE, whatever the other bits (30_encoding.md R74). -/
def execReservedOp7 (rest : BitVec 28) (s : State) : Host.Outcome State Fault Refusal :=
  runCommand (opWord 7 rest) [(true, .opcode)] id s

/-- RESERVED_OP8_F: E_OPCODE, whatever the other bits (30_encoding.md R74). -/
def execReservedOp8F (op : BitVec 3) (rest : BitVec 28) (s : State) : Host.Outcome State Fault Refusal :=
  runCommand (reservedWord op rest) [(true, .opcode)] id s

end Sys2Proof.Machine
end

