-- ==== Sys2Proof/Machine/Mixer.lean ====
section
/-! DEFINITION. The sample tick, the mixer and the duration countdown (43_mixer.md), and the instruction TICK. -/

namespace Sys2Proof.Machine

/-- mix(a, b), the saturating pairwise mix (R158). -/
def mix (a b : Byte) : Byte := BitVec.ofInt 8 (clamp ((a.toNat : Int) + (b.toNat : Int) - 127) 0 255)

/-- The running mix with one more sample; the first contributor seeds it (R159). -/
def mixInto (acc : Option Byte) (x : Byte) : Byte :=
  match acc with
  | none => x
  | some a => mix a x

/-- countdown(V) (R161). -/
def Voice.countdown (v : Voice) : Voice :=
  if v.dur ≠ 0 ∧ v.dur ≠ 0xFFFFFFFF#32 then
    let v' := { v with dur := v.dur - 1 }
    if v'.dur = 0 then v'.release else v'
  else v

/-- The loop body of tick for one allocated voice: a voice that is not idle is rendered, mixed and counted down
(R155, R157). -/
def Voice.tick (v : Voice) (acc : Option Byte) : Voice × Option Byte :=
  if v.released then (v, acc)
  else
    let r := v.render
    (r.1.countdown, some (mixInto acc r.2))

/-- The allocated voices of a channel, ascending (R156). -/
def Channel.tick (ch : Channel) (acc : Option Byte) : Channel × Option Byte :=
  let r := ch.voices.mapAccumFirst Voice.tick ch.alloc.toNat acc
  ({ ch with voices := r.1 }, r.2)

/-- The voices after a tick, and the running mix of all of them: channels ascending (R156). -/
def State.tickVoices (s : State) : Bank Channel Config.NCH × Option Byte :=
  s.channels.mapAccumFirst Channel.tick Config.NCH none

/-- The output sample of a tick: silence is 128 (R160). -/
def State.tickSample (s : State) : Byte := s.tickVoices.2.getD 128

/-- tick() (R155, R162, R165). -/
def State.tick (s : State) : State :=
  { s with
    channels := s.tickVoices.1
    lastSample := s.tickSample
    sampleCount := s.sampleCount + 1 }

/-- TICK, the pull: the tick, and its sample in bits 7:0 (40_commands.md R98, 10_state.md R30). -/
def execTick (s : State) : Host.Outcome State Fault Refusal :=
  .next (s.tick.respond (.data32 (s.tickSample.setWidth 32)))

end Sys2Proof.Machine
end

