-- ==== Sys2Proof/Machine/Bus.lean ====
section
/-! DEFINITION. The bus accesses RD32, WR32, RD8 and WR8 (20_memory.md R50 to R60) and the registers they reach
(10_state.md section 2). -/

namespace Sys2Proof.Machine

/-- What stands at a word of the register region (10_state.md R21 to R33). -/
inductive Reg where
  | id | config | cmd | dur | status | err | errCmd | tempo | sampleCount | outData | lastSample
  | chStatus (c : Nat)
  | chHeld (c : Nat)
  | reserved
deriving DecidableEq, Repr

/-- The register at an aligned address of the register region (10_state.md R47; 20_memory.md R54). -/
def regAt (addr : Addr) : Reg :=
  match addr.toNat with
  | 0x000 => .id
  | 0x004 => .config
  | 0x008 => .cmd
  | 0x00C => .dur
  | 0x010 => .status
  | 0x014 => .err
  | 0x018 => .errCmd
  | 0x01C => .tempo
  | 0x020 => .sampleCount
  | 0x024 => .outData
  | 0x028 => .lastSample
  | a =>
    if 0x040 ≤ a ∧ a < 0x080 then .chStatus ((a - 0x040) / 4)
    else if 0x080 ≤ a ∧ a < 0x0C0 then .chHeld ((a - 0x080) / 4)
    else .reserved

/-- The value a 32-bit read of a register returns, before any effect of the read. CMD reads 0 (R23); a channel
register with c ≥ NCH and a reserved word read 0 (R32, R33, R54). OUT_DATA returns the sample of the tick its read
performs (R30). -/
def State.readReg (s : State) : Reg → Word
  | .id => 0x464D5637#32
  | .config => configWord
  | .cmd => 0
  | .dur => s.dur
  | .status => s.statusWord
  | .err => s.errWord
  | .errCmd => s.errCmd
  | .tempo => s.tempo.setWidth 32
  | .sampleCount => s.sampleCount
  | .outData => s.tickSample.setWidth 32
  | .lastSample => s.lastSample.setWidth 32
  | .chStatus c => ((s.channel? c).map Channel.statusWord).getD 0
  | .chHeld c => ((s.channel? c).map Channel.heldWord).getD 0
  | .reserved => 0

/-- The effect of a register read: only OUT_DATA has one, a tick (20_memory.md R58). -/
def State.afterRead (s : State) : Reg → State
  | .outData => s.tick
  | .id => s
  | .config => s
  | .cmd => s
  | .dur => s
  | .status => s
  | .err => s
  | .errCmd => s
  | .tempo => s
  | .sampleCount => s
  | .lastSample => s
  | .chStatus _ => s
  | .chHeld _ => s
  | .reserved => s

/-- A command word executed, through its instruction's own meaning (R90). -/
def execCommandWord (w : Word) (s : State) : Host.Outcome State Fault Refusal :=
  match decodeCommand w with
  | .nop unused => execNop unused s
  | .noteOn ch slot key vel rsv => execNoteOn ch slot key vel rsv s
  | .noteOnT ch slot key vel rsv => execNoteOnT ch slot key vel rsv s
  | .noteOff ch unused => execNoteOff ch unused s
  | .allOff unused => execAllOff unused s
  | .clearCount unused => execClearCount unused s
  | .engineReset unused => execEngineReset unused s
  | .reservedOp7 rest => execReservedOp7 rest s
  | .reservedOp8F op rest => execReservedOp8F op rest s
  | .tick => .next s
  | .rd32 _ => .next s
  | .wr32 _ _ => .next s
  | .rd8 _ => .next s
  | .wr8 _ _ => .next s

/-- A 32-bit write to a register: DUR and TEMPO store, ERR clears the record, CMD executes the word; a write to a
read-only register or a reserved word has no effect (R24, R27, 60_exceptions.md R199, R23; 20_memory.md R54, R60). -/
def writeReg (r : Reg) (data : Word) (s : State) : Host.Outcome State Fault Refusal :=
  match r with
  | .cmd => execCommandWord data s
  | .dur => .next (State.respond { s with dur := data } .done)
  | .err => .next (s.clearError.respond .done)
  | .tempo => .next (State.respond { s with tempo := data.setWidth 16 } .done)
  | .id => .next (s.respond .done)
  | .config => .next (s.respond .done)
  | .status => .next (s.respond .done)
  | .errCmd => .next (s.respond .done)
  | .sampleCount => .next (s.respond .done)
  | .outData => .next (s.respond .done)
  | .lastSample => .next (s.respond .done)
  | .chStatus _ => .next (s.respond .done)
  | .chHeld _ => .next (s.respond .done)
  | .reserved => .next (s.respond .done)

/-- RD32 (20_memory.md R53 to R58). -/
def execRd32 (addr : Addr) (s : State) : Host.Outcome State Fault Refusal :=
  if busFault32 addr then .next s.raiseBusError
  else match regionOf addr with
    | .registers => .next ((s.afterRead (regAt addr)).respond (.data32 (s.readReg (regAt addr))))
    | .patchRam => .next (s.respond (.data32 (BitVec.ofNat 32 (s.patchRam.readBytes addr.toNat 4))))
    | .unmapped => .next s.raiseBusError

/-- WR32 (20_memory.md R53 to R60). -/
def execWr32 (addr : Addr) (data : Word) (s : State) : Host.Outcome State Fault Refusal :=
  if busFault32 addr then .next s.raiseBusError
  else match regionOf addr with
    | .registers => writeReg (regAt addr) data s
    | .patchRam =>
      .next (State.respond { s with patchRam := s.patchRam.writeBytes addr.toNat 4 data.toNat } .done)
    | .unmapped => .next s.raiseBusError

/-- RD8 (20_memory.md R56, R57). -/
def execRd8 (addr : Addr) (s : State) : Host.Outcome State Fault Refusal :=
  if busFault8 addr then .next s.raiseBusError
  else .next (s.respond (.data8 (BitVec.ofNat 8 (s.patchRam.readBytes addr.toNat 1))))

/-- WR8 (20_memory.md R56, R57). -/
def execWr8 (addr : Addr) (data : Byte) (s : State) : Host.Outcome State Fault Refusal :=
  if busFault8 addr then .next s.raiseBusError
  else .next (State.respond { s with patchRam := s.patchRam.writeBytes addr.toNat 1 data.toNat } .done)

end Sys2Proof.Machine
end

