-- ==== Sys2Proof/Machine/Dispatch.lean ====
section
/-! DEFINITION. The dispatch: one arm per instruction. -/

namespace Sys2Proof.Machine

/-- The meaning of an instruction. -/
def exec (i : Instr) (s : State) : Host.Outcome State Fault Refusal :=
  match i with
  | .nop unused => Sys2Proof.Machine.execNop unused s
  | .noteOn ch slot key vel rsv => Sys2Proof.Machine.execNoteOn ch slot key vel rsv s
  | .noteOnT ch slot key vel rsv => Sys2Proof.Machine.execNoteOnT ch slot key vel rsv s
  | .noteOff ch unused => Sys2Proof.Machine.execNoteOff ch unused s
  | .allOff unused => Sys2Proof.Machine.execAllOff unused s
  | .clearCount unused => Sys2Proof.Machine.execClearCount unused s
  | .engineReset unused => Sys2Proof.Machine.execEngineReset unused s
  | .reservedOp7 rest => Sys2Proof.Machine.execReservedOp7 rest s
  | .reservedOp8F op rest => Sys2Proof.Machine.execReservedOp8F op rest s
  | .tick => Sys2Proof.Machine.execTick s
  | .rd32 addr => Sys2Proof.Machine.execRd32 addr s
  | .wr32 addr data => Sys2Proof.Machine.execWr32 addr data s
  | .rd8 addr => Sys2Proof.Machine.execRd8 addr s
  | .wr8 addr data => Sys2Proof.Machine.execWr8 addr data s

end Sys2Proof.Machine
end

