-- ==== Sys2Proof/Machine/Reset.lean ====
section
/-! DEFINITION. The reset input (70_reset_and_hazards.md R215, R216). -/

namespace Sys2Proof.Machine

/-- Every register and internal state at its reset value; patch RAM keeps its content (R216), and the host's later
events stay issued (log 8). -/
def State.hardReset (s : State) : State :=
  { State.reset with patchRam := s.patchRam, pending := s.pending }

end Sys2Proof.Machine
end

