-- ==== Sys2Proof/Machine/Step.lean ====
section
/-! DEFINITION. One step of the block: the host's next event (00_scope.md R8, 20_memory.md R62). -/

namespace Sys2Proof.Machine

/-- The oldest event the host has issued is served, whole, before the next (R62). With none issued the block holds
its state (60_exceptions.md R207, log 5). -/
def step (s : State) : Host.Outcome State Fault Refusal :=
  match s.pending with
  | [] => .next s
  | .access a :: rest => exec (decodeAccess a) { s with pending := rest }
  | .reset :: rest => .next (State.hardReset { s with pending := rest })
  | .overlap _ _ :: _ => .fault .overlappingAccess

/-- `s` with the access of a table word issued ahead of everything else, so that the next step serves exactly it.
A word that stands for no access changes nothing (log 1). -/
def State.withFetchWord (s : State) (nbits w : Nat) : State :=
  match tableAccess nbits w with
  | .ok a => { s with pending := .access a :: s.pending }
  | .error _ => s

end Sys2Proof.Machine
end

