-- ==== Sys2Proof/Machine/Assembly.lean ====
section
/-! DEFINITION. The assembly statements of 30_encoding.md R81 and R82 as the bus accesses they stand for. -/

namespace Sys2Proof.Machine.Asm

/-- A command statement (R81). The fields it does not write are 0. -/
def command (i : Instr) : List BusAccess := [encode i]

/-- `NOTE c, s, k, v, n` (R82). -/
def note (c s : BitVec 4) (k v : BitVec 7) (n : Word) : List BusAccess :=
  .write32 0x00C#12 n :: command (.noteOn c s k v 0)

/-- `NOTE_T c, s, k, v, t` (R82). -/
def noteT (c s : BitVec 4) (k v : BitVec 7) (t : Word) : List BusAccess :=
  .write32 0x00C#12 t :: command (.noteOnT c s k v 0)

/-- `HOLD c, s, k, v` (R82). -/
def hold (c s : BitVec 4) (k v : BitVec 7) : List BusAccess := note c s k v 0xFFFFFFFF#32

/-- `TICK` (R82). -/
def tick : List BusAccess := command .tick

/-- `TICKS n` (R82). -/
def ticks (n : Nat) : List BusAccess := List.replicate n (encode .tick)

/-- `SET_TEMPO b` (R82). R82 gives b no width: it is the 32 bits that its WR32 carries (DESIGN CHOICE, log 19), of which
TEMPO stores bits 15:0 (10_state.md R27). -/
def setTempo (b : Word) : List BusAccess := [.write32 0x01C#12 b]

/-- `CLRERR` (R82). -/
def clrErr : List BusAccess := [.write32 0x014#12 0]

/-- `PATCHB s, off, b` (R82). R82 states no expansion for an offset above 63, beyond the slot, or for an address past
0xFFF: the sum is taken as written, and the address modulo 2^12 (DESIGN CHOICE, log 19). -/
def patchB (s : BitVec 4) (off : Nat) (b : Byte) : List BusAccess :=
  [.write8 (BitVec.ofNat 12 (Config.patchBase + Config.slotSize * s.toNat + off)) b]

/-- A whole patch written to a slot, one byte after another (70_reset_and_hazards.md R218: "64 bytes per slot, as 16
aligned 32-bit writes or as byte writes"). Bytes beyond 64 are not written, and a shorter image leaves the rest of the slot
(DESIGN CHOICE, log 19). -/
def patch (s : BitVec 4) (image : List Byte) : List BusAccess :=
  ((image.take Config.slotSize).zipIdx.map fun x => patchB s x.2 x.1).flatten

end Sys2Proof.Machine.Asm
end

