-- ==== Sys2Proof/Machine/Sequencer.lean ====
section
/-! DEFINITION. The host's side of the contract (48_host_sequencer.md R180 to R192): tracker time, section swap, note
dequeue, control surface. None of it is state of the block (10_state.md R46): each operation answers the host's own
new state and the bus accesses it issues (log 16). -/

namespace Sys2Proof.Machine

/-- A Note of a pattern; offset and duration are in tracker ticks (R180, R183). -/
structure Note where
  offset   : Nat
  key      : BitVec 7
  velocity : BitVec 7
  duration : Word
deriving DecidableEq, Repr

/-- A Section of the timeline: where it stands, its pattern's notes, its patch as the 64 bytes of a slot (R184). -/
structure SongSection where
  offset : Nat
  notes  : List Note
  patch  : List Byte
deriving DecidableEq, Repr

/-- A Song: its tempo, as wide as TEMPO (DESIGN CHOICE, log 19), and the sections of each song channel (R183). -/
structure Song where
  tempo    : BitVec 16
  sections : Bank (List SongSection) Config.NSONG
deriving DecidableEq, Repr

/-- The host state of R183. -/
structure Sequencer where
  /-- QUEUE[c], the pending notes. -/
  queue     : Bank (List Note) Config.NCH
  /-- ANCHOR[c], a sample index. -/
  anchor    : Bank Nat Config.NCH
  /-- PATCH_SLOT[c]. -/
  patchSlot : Bank (BitVec 4) Config.NCH
  /-- CURSOR[c], for the song channels. -/
  cursor    : Bank Nat Config.NSONG
  /-- SONG. -/
  song      : Option Song
deriving DecidableEq, Repr

/-- tf(bpm) for the host (R181). At 0 bpm the rule states no result: a free value (log 16). -/
def hostTicksFactor (bpm : BitVec 16) : Nat :=
  if bpm = 0 then Config.ticksFactorAtZero else ticksFactor bpm.toNat

/-- samplesForDuration(bpm, d) (R182). -/
def samplesForDuration (bpm : BitVec 16) (d : Nat) : Nat := hostTicksFactor bpm * (d + 1) / 32

/-- start(c, o), for the anchor of channel c (R183). -/
def noteStart (tempo : BitVec 16) (anchor offset : Nat) : Nat := anchor + hostTicksFactor tempo * offset / 32

/-- sectionSample(O) (R184). -/
def sectionSample (tempo : BitVec 16) (offset : Nat) : Nat := hostTicksFactor tempo * offset / 32

/-- swap(O) = max(sectionSample(O) - 1, 0) (R184). -/
def swapSample (tempo : BitVec 16) (offset : Nat) : Nat := sectionSample tempo offset - 1

/-- A note put into a queue in offset order, after those of the same offset. -/
def insertNote (x : Note) : List Note → List Note
  | [] => [x]
  | y :: ys => if x.offset < y.offset then x :: y :: ys else y :: insertNote x ys

/-- The notes in offset order (R184, R189). -/
def inOffsetOrder (notes : List Note) : List Note := notes.foldl (fun q x => insertNote x q) []

/-- The section of song channel c that its cursor names, if any. -/
def Sequencer.nextSection (q : Sequencer) (c : Nat) : Option SongSection := do
  let song ← q.song
  let sections ← song.sections.get? c
  let cursor ← q.cursor.get? c
  sections[cursor]?

/-- PATCH_SLOT[c]. For a channel c ≥ NCH, which has none, R183 and R189 state no slot: slot 0 (DESIGN CHOICE, log 18). -/
def Sequencer.slotOf (q : Sequencer) (c : Nat) : BitVec 4 := (q.patchSlot.get? c).getD 0

/-- Section swap on song channel c at sample index n (R184). -/
def Sequencer.swap (tempo : BitVec 16) (n : Nat) (q : Sequencer) (c : Nat) : Sequencer × List BusAccess :=
  match q.nextSection c with
  | some sec =>
    if n = swapSample tempo sec.offset then
      ({ q with
          queue := q.queue.modify c fun _ => inOffsetOrder sec.notes
          anchor := q.anchor.modify c fun _ => n
          cursor := q.cursor.modify c (· + 1) },
        Asm.patch (q.slotOf c) sec.patch)
    else (q, [])
  | none => (q, [])

/-- Note dequeue on channel c at sample index n: the notes at the head of the queue whose start is n (R185). -/
def Sequencer.dequeue (tempo : BitVec 16) (n : Nat) (q : Sequencer) (c : Nat) : Sequencer × List BusAccess :=
  let notes := (q.queue.get? c).getD []
  let anchor := (q.anchor.get? c).getD 0
  let due : Note → Bool := fun x => noteStart tempo anchor x.offset == n
  ({ q with queue := q.queue.modify c fun _ => notes.dropWhile due },
    ((notes.takeWhile due).map fun x =>
      Asm.noteT (BitVec.ofNat 4 c) (q.slotOf c) x.key x.velocity x.duration).flatten)

/-- One host operation after another, their accesses in order. -/
def Sequencer.overChannels (f : Sequencer → Nat → Sequencer × List BusAccess) (q : Sequencer) (count : Nat) :
    Sequencer × List BusAccess :=
  (List.range count).foldl (fun r c => let x := f r.1 c; (x.1, r.2 ++ x.2)) (q, [])

/-- The host step before a read at sample index n: section swaps, then note dequeue, channels ascending (R184,
R185). -/
def Sequencer.hostStep (tempo : BitVec 16) (n : Nat) (q : Sequencer) : Sequencer × List BusAccess :=
  let a := q.overChannels (Sequencer.swap tempo n) Config.NSONG
  let b := a.1.overChannels (Sequencer.dequeue tempo n) Config.NCH
  (b.1, a.2 ++ b.2)

/-- One sample of the pull: the host step at n = SAMPLE_COUNT, then TICK (R186, R190). -/
def Sequencer.pull (q : Sequencer) (s : State) : Sequencer × List BusAccess :=
  let r := q.hostStep s.tempo s.sampleCount.toNat
  (r.1, r.2 ++ Asm.tick)

/-- The host issues accesses to the block. -/
def State.issue (s : State) (accesses : List BusAccess) : State :=
  { s with pending := s.pending ++ accesses.map .access }

/-- stopSong() (R187). -/
def Sequencer.stopSong (q : Sequencer) : Sequencer × List BusAccess :=
  ({ q with queue := Bank.fill Config.NCH [], song := none }, Asm.command (.allOff 0))

/-- playSong(song) (R188). -/
def Sequencer.playSong (q : Sequencer) (song : Song) : Sequencer × List BusAccess :=
  ({ q with
      song := some song
      cursor := Bank.fill Config.NSONG 0
      anchor := q.anchor.mapFirst (fun _ => 0) Config.NSONG },
    Asm.setTempo (song.tempo.setWidth 32) ++ Asm.command (.clearCount 0))

/-- playPattern(c, notes, patch) (R189). With c ≥ NCH no queue and no anchor changes, and the patch goes to slot 0
(DESIGN CHOICE, log 18). -/
def Sequencer.playPattern (q : Sequencer) (c : BitVec 4) (notes : List Note) (patch : List Byte) :
    Sequencer × List BusAccess :=
  ({ q with
      queue := q.queue.modify c.toNat fun _ => inOffsetOrder notes
      anchor := q.anchor.modify c.toNat fun _ => 0 },
    Asm.patch (q.slotOf c.toNat) patch)

/-- stopPattern(c) (R189). With c ≥ NCH no queue changes (log 18), and the block rejects the NOTE_OFF. -/
def Sequencer.stopPattern (q : Sequencer) (c : BitVec 4) : Sequencer × List BusAccess :=
  ({ q with queue := q.queue.modify c.toNat fun _ => [] }, Asm.command (.noteOff c 0))

/-- The duration of a live note (R190). -/
inductive LiveDuration where
  | indefinite
  | trackerTicks (t : Word)
  | samples (n : Word)
deriving DecidableEq, Repr

/-- noteOn(c, patch, key, duration, velocity): the patch written to slot s, then the note (R190). -/
def liveNoteOn (c s : BitVec 4) (patch : List Byte) (key velocity : BitVec 7) (d : LiveDuration) : List BusAccess :=
  Asm.patch s patch ++
  match d with
  | .indefinite => Asm.hold c s key velocity
  | .trackerTicks t => Asm.noteT c s key velocity t
  | .samples n => Asm.note c s key velocity n

/-- noteOff(c) (R190). -/
def liveNoteOff (c : BitVec 4) : List BusAccess := Asm.command (.noteOff c 0)

/-- atEnd(): STATUS.AT_END, every queue empty, and every section of an attached song consumed (R191). -/
def Sequencer.atEnd (q : Sequencer) (s : State) : Bool :=
  s.atEnd && q.queue.list.all List.isEmpty &&
  match q.song with
  | none => true
  | some song => (List.range Config.NSONG).all fun c =>
      q.cursor.get? c == (song.sections.get? c).map List.length

end Sys2Proof.Machine
end

