-- ==== Sys2Proof/Safety.lean ====
section
/-! DEFINITION. What counts as a safe state, in the terms the statements use: the invariants of 10_state.md R45 with
the ranges the rules give each register, and the spec's words for a rejected command and a started note. -/

namespace Sys2Proof.Machine

/-! ### Invariants of a voice -/

/-- (a) of R45, made inductive: an idle voice is free, and so is a voice in its release tail (NOTE_OFF, ALL_OFF and
the countdown each leave DUR at 0 when they release: 40_commands.md R94, R95; 43_mixer.md R161). -/
abbrev Voice.TailIsFree (v : Voice) : Prop := v.ampPh = .idle ∨ v.ampPh = .release → v.dur = 0

/-- (b) of R45: in an idle voice every operator is idle at level 0; and so is the overall level (R150). -/
abbrev Voice.IdleIsCleared (v : Voice) : Prop :=
  v.ampPh = .idle → v.ampE = 0 ∧ v.opPh = Quad.fill .idle ∧ v.opE = Quad.fill 0

/-- (c) of R45, with the range of G_LEN (10_state.md R41). -/
abbrev Voice.GlideInRange (v : Voice) : Prop := v.gPos.toNat ≤ v.gLen.toNat ∧ v.gLen.toNat ≤ 8000

/-- 0 ≤ E ≤ EFULL for every envelope (42_envelopes.md R153). -/
abbrev Voice.LevelsInRange (v : Voice) : Prop :=
  v.ampE.toNat ≤ Config.EFULL ∧ ∀ k ∈ OpIx.all, (v.opE.get k).toNat ≤ Config.EFULL

/-- FB_PREV in [-4095, 4095] (10_state.md R40). -/
abbrev Voice.FeedbackInRange (v : Voice) : Prop := -4095 ≤ v.fbPrev.toInt ∧ v.fbPrev.toInt ≤ 4095

/-- LFO_AGE at most LFO_AGE_MAX (10_state.md R42). -/
abbrev Voice.LfoInRange (v : Voice) : Prop := v.lfoAge.toNat ≤ Config.LFO_AGE_MAX

/-- The ranges of an operator's record (30_encoding.md R78). -/
abbrev OpParams.InRange (p : OpParams) : Prop :=
  p.level.toNat ≤ 100 ∧ p.fine.toNat ≤ 99 ∧ p.detune.toNat ≤ 100 ∧ p.opA.toNat ≤ 100 ∧ p.opD.toNat ≤ 100 ∧
  p.opS.toNat ≤ 100

/-- The ranges of a decoded patch record (30_encoding.md R77). -/
abbrev Snap.InRange (p : Snap) : Prop :=
  1 ≤ p.alg.toNat ∧ p.alg.toNat ≤ Config.NALG ∧ p.volume.toNat ≤ 100 ∧ p.feedback.toNat ≤ 100 ∧
  p.glide.toNat ≤ 100 ∧ p.envA.toNat ≤ 100 ∧ p.envD.toNat ≤ 100 ∧ p.envS.toNat ≤ 100 ∧ p.envR.toNat ≤ 100 ∧
  p.lfoSpeed.toNat ≤ 100 ∧ p.lfoAttack.toNat ≤ 100 ∧ p.lfoPmd.toNat ≤ 100 ∧
  ∀ k ∈ OpIx.all, (p.op.get k).InRange

/-- A voice that sounds has a legal patch: only NOTE_ON and NOTE_ON_T trigger, after the check of 30_encoding.md
R79. -/
abbrev Voice.LivePatchInRange (v : Voice) : Prop := v.ampPh ≠ .idle → v.snap.InRange

/-- The invariant of an allocated voice. -/
abbrev Voice.Inv (v : Voice) : Prop :=
  v.TailIsFree ∧ v.IdleIsCleared ∧ v.GlideInRange ∧ v.LevelsInRange ∧ v.FeedbackInRange ∧ v.LfoInRange ∧
  v.LivePatchInRange

/-! ### Invariants of the state -/

/-- ALLOC in [0, VPC] (10_state.md R34); every allocated voice meets its invariant; every other voice is at its reset
values (10_state.md section 4). -/
abbrev Channel.Inv (ch : Channel) : Prop :=
  ch.alloc.toNat ≤ Config.VPC ∧ (∀ v ∈ ch.allocated, v.Inv) ∧
  ∀ v ∈ ch.voices.list.drop ch.alloc.toNat, v = Voice.reset

/-- The error record: CODE is one of R195, and while it is 0, MORE and ERR_CMD are 0 (10_state.md R26, R28). -/
abbrev State.ErrorRecordInv (s : State) : Prop :=
  s.errCode.toNat ≤ 8 ∧ (s.errCode = 0 → s.errMore = false ∧ s.errCmd = 0)

/-- The invariant of the state: pools, voices, error record, and patch RAM in its canonical form. -/
abbrev State.Inv (s : State) : Prop :=
  (∀ ch ∈ s.channels.list, ch.Inv) ∧ s.ErrorRecordInv ∧ s.patchRam.wf = true

/-! ### The spec's words -/

/-- `raise Error(code)` for the command word w has taken `s` to `t`, and the CMD write has completed: the error record
of 60_exceptions.md R198, and nothing else (R197). -/
abbrev Rejected (s t : State) (code : BitVec 4) (w : Word) : Prop :=
  t = if s.errCode = 0 then { s with errCode := code, errCmd := w, response := .done }
      else { s with errMore := true, response := .done }

/-- Executing `i` in `s` is a rejected command with this code and this word. -/
abbrev RejectedBy (i : Instr) (s : State) (code : BitVec 4) (w : Word) : Prop :=
  ∃ t, exec i s = .next t ∧ Rejected s t code w

/-- No allocated voice of the channel is free (40_commands.md R99). -/
abbrev Channel.NoneFree (c : Channel) : Prop :=
  ∀ j v, j < c.alloc.toNat → c.voices.get? j = some v → v.dur ≠ 0

/-- Voice i of channel `c` has become `v'` in channel `c'`; no other voice has changed. -/
abbrev Channel.OnlyVoice (c c' : Channel) (i : Nat) (v' : Voice) : Prop :=
  c'.voices.get? i = some v' ∧ ∀ j, j ≠ i → c'.voices.get? j = c.voices.get? j

/-- A note with patch `p` and duration `d` has been started on channel `c`, giving `c'` (40_commands.md R92, R99,
R100): on the lowest-numbered free voice, or, where none is free, on a new voice at its reset values. -/
abbrev Channel.NoteStarted (c c' : Channel) (p : Snap) (key vel : BitVec 7) (d : Word) : Prop :=
  (∃ i v, i < c.alloc.toNat ∧ c.voices.get? i = some v ∧ v.dur = 0 ∧
    (∀ j u, j < i → c.voices.get? j = some u → u.dur ≠ 0) ∧
    c'.alloc = c.alloc ∧ c.OnlyVoice c' i { v.trigger p key vel with dur := d }) ∨
  (c.NoneFree ∧ c.alloc.toNat < Config.VPC ∧ c'.alloc.toNat = c.alloc.toNat + 1 ∧
    c.OnlyVoice c' c.alloc.toNat { Voice.reset.trigger p key vel with dur := d })

/-- Channel number `n` of `s` has become `c'` in `t`; no other channel has changed. -/
abbrev State.OnlyChannel (s t : State) (n : Nat) (c' : Channel) : Prop :=
  t.channels.get? n = some c' ∧ ∀ m, m ≠ n → t.channels.get? m = s.channels.get? m

/-- The samples that contribute to a tick, in visit order (43_mixer.md R156, R157). -/
def State.contributions (s : State) : List Byte :=
  (s.channels.list.flatMap Channel.allocated).filterMap fun v =>
    if v.ampPh = .idle then none else some v.render.2

/-- The mix of the contributions, left to right, the first seeding it; 128 where there is none (43_mixer.md R159,
R160). -/
def mixdown : List Byte → Byte
  | [] => 128
  | x :: xs => xs.foldl mix x

end Sys2Proof.Machine
end

