-- ==== Sys2Proof/Certificates/Slice0/Obligations.lean ====
section
/-! DEFINITION. The statements about the machine, from the numbered rules of spec/. -/

open Sys2Proof Sys2Proof.Machine

/-! ### Encoding -/

/-- Decoding the access of a well-formed instruction gives the instruction back, with every field at every value. -/
def Obligations.EncodeThenDecode : Prop :=
  ∀ i : Instr, i.wf = true → decodeAccess (encode i) = i

/-- Every bus access decodes to a well-formed instruction, whose access it is. -/
def Obligations.DecodeThenEncode : Prop :=
  ∀ a : BusAccess, (decodeAccess a).wf = true ∧ encode (decodeAccess a) = a

/-- 30_encoding.md R71, R73, R74: OP 3:0, CH 7:4, SLOT 11:8, KEY 18:12, VEL 25:19, RSV 31:26, as numbers, and the opcode
numbers. That the bits an opcode does not use are kept in its instruction is the model's choice (log 11). -/
def Obligations.CommandFieldPositions : Prop :=
  ∀ (ch slot : BitVec 4) (key vel : BitVec 7) (rsv : BitVec 6) (above8 : BitVec 24) (above4 : BitVec 28) (low : BitVec 3),
    let fields := 16 * ch.toNat + 256 * slot.toNat + 4096 * key.toNat + 524288 * vel.toNat + 67108864 * rsv.toNat
    decodeCommand (BitVec.ofNat 32 (0 + 16 * above4.toNat)) = .nop above4 ∧
    decodeCommand (BitVec.ofNat 32 (1 + fields)) = .noteOn ch slot key vel rsv ∧
    decodeCommand (BitVec.ofNat 32 (2 + fields)) = .noteOnT ch slot key vel rsv ∧
    decodeCommand (BitVec.ofNat 32 (3 + 16 * ch.toNat + 256 * above8.toNat)) = .noteOff ch above8 ∧
    decodeCommand (BitVec.ofNat 32 (4 + 16 * above4.toNat)) = .allOff above4 ∧
    decodeCommand (BitVec.ofNat 32 (5 + 16 * above4.toNat)) = .clearCount above4 ∧
    decodeCommand (BitVec.ofNat 32 (6 + 16 * above4.toNat)) = .engineReset above4 ∧
    decodeCommand (BitVec.ofNat 32 (7 + 16 * above4.toNat)) = .reservedOp7 above4 ∧
    decodeCommand (BitVec.ofNat 32 (8 + low.toNat + 16 * above4.toNat)) = .reservedOp8F low above4

/-- 95_test_vectors.md L2-A: the spec's own command words. -/
def Obligations.SpecWordsDecode : Prop :=
  decodeAccess (.write32 0x008#12 0x03FC5121#32) = .noteOn 2 1 69 127 0 ∧
  decodeAccess (.write32 0x008#12 0x03239212#32) = .noteOnT 1 2 57 100 0 ∧
  decodeAccess (.write32 0x008#12 0x00000023#32) = .noteOff 2 0 ∧
  decodeAccess (.write32 0x008#12 0x00000004#32) = .allOff 0 ∧
  decodeAccess (.write32 0x008#12 0x00000006#32) = .engineReset 0 ∧
  decodeAccess (.read32 0x024#12) = .tick ∧
  decodeAccess (.read8 0x024#12) = .rd8 0x024#12

/-! ### The step -/

/-- A step serves the host's oldest access: it is exec of the decoded access, with the access taken off the list; and
a word placed by withFetchWord is the access the next step serves. -/
def Obligations.StepRunsTheDecodedAccess : Prop :=
  (∀ (s : State) (a : BusAccess) (rest : List HostEvent), s.pending = .access a :: rest →
    step s = exec (decodeAccess a) { s with pending := rest }) ∧
  (∀ (s : State) (w : Nat), w < 2 ^ 32 → step (s.withFetchWord 32 w) = exec (decodeCommand (BitVec.ofNat 32 w)) s) ∧
  (∀ s : State, step (s.withFetchWord 16 0x024) = exec .tick s)

/-- 60_exceptions.md R208: no access stops the block; after any error it accepts the next access. -/
def Obligations.EveryAccessIsServed : Prop :=
  ∀ (s : State) (a : BusAccess) (rest : List HostEvent), s.pending = .access a :: rest →
    ∃ t, step s = .next t ∧ t.pending = rest

/-- 70_reset_and_hazards.md R215: what the reset input leaves, and the first read of STATUS and of OUT_DATA. -/
def Obligations.ResetInputResets : Prop :=
  ∀ (s : State) (rest : List HostEvent), s.pending = .reset :: rest →
    ∃ t, step s = .next t ∧ t.patchRam = s.patchRam ∧
      t.dur = 0 ∧ t.tempo = 120 ∧ t.errCode = 0 ∧ t.errMore = false ∧ t.errCmd = 0 ∧ t.sampleCount = 0 ∧
      t.lastSample = 128 ∧
      (∀ n c, t.channels.get? n = some c → c.alloc = 0 ∧ ∀ i v, c.voices.get? i = some v → v = Voice.reset) ∧
      exec (.rd32 0x010#12) t = .next { t with response := .data32 3 } ∧
      ∃ u, exec .tick t = .next u ∧ u.response = .data32 128

/-- What the host reads from reset (10_state.md R47, 95_test_vectors.md L2-L): every register but OUT_DATA, whose read is
a tick; CH_STATUS[c] and CH_HELD[c] for every c, and every reserved word. And a voice is reset to IDLE with every other
field 0. -/
def Obligations.ResetRegisterValues : Prop :=
  let reads := fun (a : Addr) (d : Word) => exec (.rd32 a) State.reset = .next { State.reset with response := .data32 d }
  reads 0x000 0x464D5637 ∧ reads 0x004 0x0B100808 ∧ reads 0x008 0 ∧ reads 0x00C 0 ∧ reads 0x010 3 ∧ reads 0x014 0 ∧
  reads 0x018 0 ∧ reads 0x01C 120 ∧ reads 0x020 0 ∧ reads 0x028 128 ∧
  (∀ a : Addr, a.toNat % 4 = 0 → 0x02C ≤ a.toNat → a.toNat < 0x100 → reads a 0) ∧
  let v := Voice.reset
  v.snap = Snap.zero ∧ v.key = 0 ∧ v.vel = 0 ∧ v.ampPh = .idle ∧ v.dur = 0 ∧ v.ampE = 0 ∧ v.fbPrev = 0 ∧
  v.gFrom = 0 ∧ v.gTo = 0 ∧ v.gLen = 0 ∧ v.gPos = 0 ∧ v.base = 0 ∧ v.lfoPhase = 0 ∧ v.lfoAge = 0 ∧
  ∀ k, v.opPh.get k = .idle ∧ v.opE.get k = 0 ∧ v.phase.get k = 0

/-! ### Bus accesses -/

/-- 20_memory.md R57 and 60_exceptions.md R201: which accesses are a BusError, and that a BusError changes nothing but
the answer on the bus. -/
def Obligations.BusErrorsChangeNothing : Prop :=
  ∀ (s : State) (a : Addr) (d : Word) (b : Byte),
    ((0x100 ≤ a.toNat ∧ a.toNat < 0x400) ∨ 0x800 ≤ a.toNat ∨ a.toNat % 4 ≠ 0 →
      exec (.rd32 a) s = .next { s with response := .busError } ∧
      exec (.wr32 a d) s = .next { s with response := .busError }) ∧
    (a.toNat < 0x400 ∨ 0x800 ≤ a.toNat →
      exec (.rd8 a) s = .next { s with response := .busError } ∧
      exec (.wr8 a b) s = .next { s with response := .busError })

/-- 20_memory.md R55 and R56: 8-bit and 32-bit accesses to patch RAM, little-endian; every byte outside the bytes
stored reads as before, and a misaligned 32-bit access is a BusError. -/
def Obligations.PatchRamAccess : Prop :=
  ∀ (s : State) (a : Addr), 0x400 ≤ a.toNat → a.toNat < 0x800 →
    let old := fun n => s.patchRam.read n
    exec (.rd8 a) s = .next { s with response := .data8 (old a.toNat) } ∧
    (s.patchRam.wf = true → ∀ d : Byte, ∃ m : Memory,
      exec (.wr8 a d) s = .next { s with patchRam := m, response := .done } ∧
      ∀ n, m.read n = if n = a.toNat then d else old n) ∧
    (a.toNat % 4 = 0 →
      (∃ d : Word, exec (.rd32 a) s = .next { s with response := .data32 d } ∧
        d.toNat = (old a.toNat).toNat + 256 * (old (a.toNat + 1)).toNat + 65536 * (old (a.toNat + 2)).toNat +
          16777216 * (old (a.toNat + 3)).toNat) ∧
      (s.patchRam.wf = true → ∀ d : Word, ∃ m : Memory,
        exec (.wr32 a d) s = .next { s with patchRam := m, response := .done } ∧
        ∀ n, m.read n = if n = a.toNat then d.extractLsb' 0 8 else if n = a.toNat + 1 then d.extractLsb' 8 8
          else if n = a.toNat + 2 then d.extractLsb' 16 8 else if n = a.toNat + 3 then d.extractLsb' 24 8 else old n)) ∧
    (a.toNat % 4 ≠ 0 → ∀ d : Word,
      exec (.rd32 a) s = .next { s with response := .busError } ∧
      exec (.wr32 a d) s = .next { s with response := .busError })

/-- 10_state.md R21 to R24, R27 to R29, R31: the registers that read as they stand, or as a constant. -/
def Obligations.RegisterReads : Prop :=
  ∀ s : State,
    let reads := fun (a : Addr) (d : Word) => exec (.rd32 a) s = .next { s with response := .data32 d }
    reads 0x000 0x464D5637 ∧ reads 0x004 0x0B100808 ∧ reads 0x008 0 ∧ reads 0x00C s.dur ∧ reads 0x018 s.errCmd ∧
    reads 0x01C (s.tempo.setWidth 32) ∧ reads 0x020 s.sampleCount ∧ reads 0x028 (s.lastSample.setWidth 32)

/-- 10_state.md R24 and R27: a write to DUR stores the 32-bit value, a write to TEMPO bits 15:0. -/
def Obligations.DurationAndTempoStore : Prop :=
  ∀ (s : State) (d : Word),
    exec (.wr32 0x00C d) s = .next { s with dur := d, response := .done } ∧
    ∃ b : BitVec 16, b.toNat = d.toNat % 65536 ∧ exec (.wr32 0x01C d) s = .next { s with tempo := b, response := .done }

/-- 20_memory.md R54: a reserved word, and CH_STATUS[c] and CH_HELD[c] with c ≥ NCH, read 0 and ignore writes. -/
def Obligations.ReservedWordsReadZeroAndIgnoreWrites : Prop :=
  ∀ (s : State) (a : Addr) (d : Word), a.toNat % 4 = 0 →
    (0x02C ≤ a.toNat ∧ a.toNat < 0x040) ∨ (0x060 ≤ a.toNat ∧ a.toNat < 0x080) ∨ (0x0A0 ≤ a.toNat ∧ a.toNat < 0x100) →
    exec (.rd32 a) s = .next { s with response := .data32 0 } ∧
    exec (.wr32 a d) s = .next { s with response := .done }

/-- 20_memory.md R60: a write to ID, CONFIG, STATUS, ERR_CMD, SAMPLE_COUNT, OUT_DATA, LAST_SAMPLE, CH_STATUS or CH_HELD
has no effect, and raises no error. -/
def Obligations.ReadOnlyRegistersIgnoreWrites : Prop :=
  ∀ (s : State) (a : Addr) (d : Word),
    a.toNat ∈ [0x000, 0x004, 0x010, 0x018, 0x020, 0x024, 0x028] ∨
      (a.toNat % 4 = 0 ∧ 0x040 ≤ a.toNat ∧ a.toNat < 0x0C0) →
    exec (.wr32 a d) s = .next { s with response := .done }

/-- 10_state.md R25, 43_mixer.md R163, R164: STATUS is computed from the allocated voices. -/
def Obligations.StatusBits : Prop :=
  ∀ s : State, ∃ w : Word, exec (.rd32 0x010) s = .next { s with response := .data32 w } ∧
    (w.getLsbD 0 = true ↔ ∀ n c i v, s.channels.get? n = some c → i < c.alloc.toNat → c.voices.get? i = some v →
      v.ampPh = .idle ∨ v.dur = 0) ∧
    (w.getLsbD 1 = true ↔ ∀ n c i v, s.channels.get? n = some c → i < c.alloc.toNat → c.voices.get? i = some v →
      v.ampPh = .idle) ∧
    (∀ j, 2 ≤ j → w.getLsbD j = false) ∧ (w.getLsbD 1 = true → w.getLsbD 0 = true) ∧ (s = State.reset → w = 3)

/-- 10_state.md R26: the bits of ERR, and what a write of any value does. -/
def Obligations.ErrorRegister : Prop :=
  (∀ s : State, ∃ w : Word, exec (.rd32 0x014) s = .next { s with response := .data32 w } ∧
    (∀ j, j < 4 → w.getLsbD j = s.errCode.getLsbD j) ∧ w.getLsbD 8 = s.errMore ∧
    ∀ j, 4 ≤ j → j ≠ 8 → w.getLsbD j = false) ∧
  (∀ (s : State) (d : Word), exec (.wr32 0x014 d) s =
    .next { s with errCode := 0, errMore := false, errCmd := 0, response := .done })

/-- 10_state.md R32 and R33: the bits of CH_STATUS[c] and CH_HELD[c] for c < NCH; 0 for c ≥ NCH, and 0 at reset. -/
def Obligations.ChannelRegisterBits : Prop :=
  ∀ (s : State) (n : Nat) (a b : Addr), n < 16 → a.toNat = 0x040 + 4 * n → b.toNat = 0x080 + 4 * n →
    (n < 8 ↔ ∃ c, s.channels.get? n = some c) ∧
    (8 ≤ n ∨ s = State.reset →
      exec (.rd32 a) s = .next { s with response := .data32 0 } ∧
      exec (.rd32 b) s = .next { s with response := .data32 0 }) ∧
    ∀ c : Channel, s.channels.get? n = some c →
    (∃ w : Word, exec (.rd32 a) s = .next { s with response := .data32 w } ∧
      (∀ j, j < 5 → w.getLsbD j = c.alloc.getLsbD j) ∧ (∀ j, 5 ≤ j → j < 16 → w.getLsbD j = false) ∧
      ∀ i, i < 16 → (w.getLsbD (16 + i) = true ↔
        i < c.alloc.toNat ∧ ∃ v, c.voices.get? i = some v ∧ v.ampPh ≠ .idle)) ∧
    (∃ w : Word, exec (.rd32 b) s = .next { s with response := .data32 w } ∧
      (∀ i, i < 16 → (w.getLsbD i = true ↔ i < c.alloc.toNat ∧ ∃ v, c.voices.get? i = some v ∧ v.dur ≠ 0)) ∧
      ∀ j, 16 ≤ j → w.getLsbD j = false)

/-- 20_memory.md R58: a read of any address but OUT_DATA changes no state, and read again it returns the same. -/
def Obligations.OnlyOutDataReadsChangeState : Prop :=
  ∀ (s : State) (a : Addr),
    (a ≠ 0x024 → ∃ r, exec (.rd32 a) s = .next { s with response := r } ∧
      exec (.rd32 a) { s with response := r } = .next { s with response := r }) ∧
    (∃ r, exec (.rd8 a) s = .next { s with response := r } ∧
      exec (.rd8 a) { s with response := r } = .next { s with response := r }) ∧
    exec (.rd32 0x024) s = exec .tick s

/-- 10_state.md R30: a 32-bit read of OUT_DATA performs one tick and returns its sample in bits 7:0, with bits 31:8 equal
to 0; a write has no effect. -/
def Obligations.OutDataReadTicks : Prop :=
  ∀ (s : State) (d : Word),
    exec (.rd32 0x024) s = .next { s.tick with response := .data32 (s.tick.lastSample.setWidth 32) } ∧
    exec (.wr32 0x024 d) s = .next { s with response := .done }

/-- 10_state.md R23 and 40_commands.md R90: a 32-bit write to CMD executes the command its word encodes; a read of CMD
returns 0. -/
def Obligations.CmdWriteRunsTheCommand : Prop :=
  ∀ (s : State) (w : Word), exec (.wr32 0x008 w) s = exec (decodeCommand w) s ∧
    exec (.rd32 0x008) s = .next { s with response := .data32 0 }

/-! ### Commands -/

/-- 40_commands.md R91. -/
def Obligations.NopRule : Prop :=
  ∀ (s : State) (unused : BitVec 28),
    exec (.nop 0) s = .next { s with response := .done } ∧
    (unused ≠ 0 → RejectedBy (.nop unused) s 2 (BitVec.ofNat 32 (16 * unused.toNat)))

/-- 30_encoding.md R74: a reserved opcode is E_OPCODE, whatever the other bits, and has no other effect. -/
def Obligations.ReservedOpcodesAreRejected : Prop :=
  ∀ (s : State) (low : BitVec 3) (rest : BitVec 28),
    RejectedBy (.reservedOp7 rest) s 1 (BitVec.ofNat 32 (7 + 16 * rest.toNat)) ∧
    RejectedBy (.reservedOp8F low rest) s 1 (BitVec.ofNat 32 (8 + low.toNat + 16 * rest.toNat))

/-- 30_encoding.md R76: a non-zero RSV field, or a non-zero field the opcode does not use, is E_RSVD. -/
def Obligations.ReservedFieldsAreRejected : Prop :=
  ∀ (s : State) (ch slot : BitVec 4) (key vel : BitVec 7) (rsv : BitVec 6) (above8 : BitVec 24) (above4 : BitVec 28),
    let fields := 16 * ch.toNat + 256 * slot.toNat + 4096 * key.toNat + 524288 * vel.toNat + 67108864 * rsv.toNat
    (rsv ≠ 0 → RejectedBy (.noteOn ch slot key vel rsv) s 2 (BitVec.ofNat 32 (1 + fields)) ∧
      RejectedBy (.noteOnT ch slot key vel rsv) s 2 (BitVec.ofNat 32 (2 + fields))) ∧
    (above8 ≠ 0 → RejectedBy (.noteOff ch above8) s 2 (BitVec.ofNat 32 (3 + 16 * ch.toNat + 256 * above8.toNat))) ∧
    (above4 ≠ 0 → RejectedBy (.nop above4) s 2 (BitVec.ofNat 32 (16 * above4.toNat)) ∧
      RejectedBy (.allOff above4) s 2 (BitVec.ofNat 32 (4 + 16 * above4.toNat)) ∧
      RejectedBy (.clearCount above4) s 2 (BitVec.ofNat 32 (5 + 16 * above4.toNat)) ∧
      RejectedBy (.engineReset above4) s 2 (BitVec.ofNat 32 (6 + 16 * above4.toNat)))

/-- 40_commands.md R92: NOTE_ON's errors in their order, and the note it starts. E_PATCH is not in it: SLOT has 4 bits
and FMV-1 has 16 slots. -/
def Obligations.NoteOnRule : Prop :=
  ∀ (s : State) (ch slot : BitVec 4) (key vel : BitVec 7) (rsv : BitVec 6),
    let fields := 16 * ch.toNat + 256 * slot.toNat + 4096 * key.toNat + 524288 * vel.toNat + 67108864 * rsv.toNat
    let i := Instr.noteOn ch slot key vel rsv
    let w : Word := BitVec.ofNat 32 (1 + fields)
    let slotByte := fun off => s.patchRam.read (0x400 + 64 * slot.toNat + off)
    (rsv ≠ 0 → RejectedBy i s 2 w) ∧
    (rsv = 0 → 8 ≤ ch.toNat → RejectedBy i s 3 w) ∧
    (rsv = 0 → ch.toNat < 8 → s.dur = 0 → RejectedBy i s 6 w) ∧
    (rsv = 0 → ch.toNat < 8 → s.dur ≠ 0 → patchLegal slotByte = false → RejectedBy i s 7 w) ∧
    (∀ c, rsv = 0 → s.channels.get? ch.toNat = some c → s.dur ≠ 0 → patchLegal slotByte = true →
      (c.NoneFree → 8 ≤ c.alloc.toNat → RejectedBy i s 8 w) ∧
      (¬ c.NoneFree ∨ c.alloc.toNat < 8 → ∃ t c', exec i s = .next t ∧
        c.NoteStarted c' (decodePatch slotByte) key vel s.dur ∧ s.OnlyChannel t ch.toNat c' ∧
        t = { s with channels := t.channels, response := .done } ∧ t.atEnd = false ∧ t.allIdle = false))

/-- 40_commands.md R93 and R101: NOTE_ON_T's errors in their order, and the note it starts, with its duration in
tracker ticks converted to samples. -/
def Obligations.NoteOnTRule : Prop :=
  ∀ (s : State) (ch slot : BitVec 4) (key vel : BitVec 7) (rsv : BitVec 6),
    let fields := 16 * ch.toNat + 256 * slot.toNat + 4096 * key.toNat + 524288 * vel.toNat + 67108864 * rsv.toNat
    let i := Instr.noteOnT ch slot key vel rsv
    let w : Word := BitVec.ofNat 32 (2 + fields)
    let slotByte := fun off => s.patchRam.read (0x400 + 64 * slot.toNat + off)
    let samples := min (480000 / s.tempo.toNat * (s.dur.toNat + 1) / 32) 0xFFFFFFFE
    let held := s.dur = 0xFFFFFFFF
    let timed := ¬ held ∧ s.tempo ≠ 0
    (rsv ≠ 0 → RejectedBy i s 2 w) ∧
    (rsv = 0 → 8 ≤ ch.toNat → RejectedBy i s 3 w) ∧
    (rsv = 0 → ch.toNat < 8 → ¬ held → s.tempo = 0 → RejectedBy i s 5 w) ∧
    (rsv = 0 → ch.toNat < 8 → timed → samples = 0 → RejectedBy i s 6 w) ∧
    (rsv = 0 → ch.toNat < 8 → held ∨ (timed ∧ samples ≠ 0) → patchLegal slotByte = false → RejectedBy i s 7 w) ∧
    (∀ c, rsv = 0 → s.channels.get? ch.toNat = some c → held ∨ (timed ∧ samples ≠ 0) → patchLegal slotByte = true →
      (c.NoneFree → 8 ≤ c.alloc.toNat → RejectedBy i s 8 w) ∧
      (¬ c.NoneFree ∨ c.alloc.toNat < 8 → ∃ t c' d, exec i s = .next t ∧
        (held → d = 0xFFFFFFFF#32) ∧ (timed → d.toNat = samples) ∧
        c.NoteStarted c' (decodePatch slotByte) key vel d ∧ s.OnlyChannel t ch.toNat c' ∧
        t = { s with channels := t.channels, response := .done } ∧ t.atEnd = false ∧ t.allIdle = false))

/-- 40_commands.md R94: NOTE_OFF's errors; else every allocated voice of the channel, and nothing else, is released and
free. -/
def Obligations.NoteOffRule : Prop :=
  ∀ (s : State) (ch : BitVec 4) (above8 : BitVec 24),
    let w : Word := BitVec.ofNat 32 (3 + 16 * ch.toNat + 256 * above8.toNat)
    (above8 ≠ 0 → RejectedBy (.noteOff ch above8) s 2 w) ∧
    (above8 = 0 → 8 ≤ ch.toNat → RejectedBy (.noteOff ch above8) s 3 w) ∧
    (∀ c, above8 = 0 → s.channels.get? ch.toNat = some c → ∃ t c', exec (.noteOff ch above8) s = .next t ∧
      s.OnlyChannel t ch.toNat c' ∧ c'.alloc = c.alloc ∧
      (∀ i v, c.voices.get? i = some v →
        c'.voices.get? i = some (if i < c.alloc.toNat then { v.release with dur := 0 } else v)) ∧
      t = { s with channels := t.channels, response := .done } ∧
      c'.heldWord = 0 ∧ t.allIdle = s.allIdle ∧
      (t.atEnd = true ↔ ∀ n d v, n ≠ ch.toNat → s.channels.get? n = some d → v ∈ d.allocated →
        v.ampPh = .idle ∨ v.dur = 0))

/-- 40_commands.md R95: ALL_OFF's error; else every allocated voice of every channel, and nothing else, is released and
free. -/
def Obligations.AllOffRule : Prop :=
  ∀ (s : State) (above4 : BitVec 28),
    (above4 ≠ 0 → RejectedBy (.allOff above4) s 2 (BitVec.ofNat 32 (4 + 16 * above4.toNat))) ∧
    ∃ t, exec (.allOff 0) s = .next t ∧
      (∀ n c, s.channels.get? n = some c → ∃ c', t.channels.get? n = some c' ∧ c'.alloc = c.alloc ∧ c'.heldWord = 0 ∧
        ∀ i v, c.voices.get? i = some v →
          c'.voices.get? i = some (if i < c.alloc.toNat then { v.release with dur := 0 } else v)) ∧
      t = { s with channels := t.channels, response := .done } ∧ t.atEnd = true

/-- 40_commands.md R96. -/
def Obligations.ClearCountRule : Prop :=
  ∀ (s : State) (above4 : BitVec 28),
    exec (.clearCount 0) s = .next { s with sampleCount := 0, response := .done } ∧
    (above4 ≠ 0 → RejectedBy (.clearCount above4) s 2 (BitVec.ofNat 32 (5 + 16 * above4.toNat)))

/-- 40_commands.md R97, 70_reset_and_hazards.md R217: pools, voices, counter, last sample and error record reset; DUR,
TEMPO and patch RAM kept. -/
def Obligations.EngineResetRule : Prop :=
  ∀ (s : State) (above4 : BitVec 28),
    (above4 ≠ 0 → RejectedBy (.engineReset above4) s 2 (BitVec.ofNat 32 (6 + 16 * above4.toNat))) ∧
    ∃ t, exec (.engineReset 0) s = .next t ∧
      (∀ n c, t.channels.get? n = some c → c.alloc = 0 ∧ (∀ i v, c.voices.get? i = some v → v = Voice.reset) ∧
        c.statusWord = 0 ∧ c.heldWord = 0) ∧
      t = { s with
        channels := t.channels, sampleCount := 0, lastSample := 128, errCode := 0, errMore := false, errCmd := 0,
        response := .done } ∧
      t.statusWord = 3

/-- 10_state.md R44 and 20_memory.md R65: no instruction but a 32-bit or 8-bit write changes patch RAM. -/
def Obligations.PatchRamChangesOnlyByHostWrites : Prop :=
  ∀ (i : Instr) (s t : State), exec i s = .next t → (∀ a d, i ≠ .wr32 a d) → (∀ a d, i ≠ .wr8 a d) →
    t.patchRam = s.patchRam

/-- 10_state.md R24 and R27: no instruction but a 32-bit write changes DUR or TEMPO, so no command does. -/
def Obligations.DurationAndTempoChangeOnlyByTheirWrites : Prop :=
  ∀ (i : Instr) (s t : State), exec i s = .next t →
    ((∀ d, i ≠ .wr32 0x00C d) → t.dur = s.dur) ∧ ((∀ d, i ≠ .wr32 0x01C d) → t.tempo = s.tempo)

/-- 43_mixer.md R162, 10_state.md R29: SAMPLE_COUNT advances by 1 mod 2^32 at a tick, is 0 after CLEAR_COUNT and
ENGINE_RESET, and no other instruction changes it. -/
def Obligations.SampleCountChangesOnlyBy : Prop :=
  ∀ (i : Instr) (s t : State), i.wf = true → exec i s = .next t →
    (i = .tick → t.sampleCount.toNat = (s.sampleCount.toNat + 1) % 2 ^ 32) ∧
    (i = .clearCount 0 ∨ i = .engineReset 0 → t.sampleCount = 0) ∧
    (i ≠ .tick → i ≠ .clearCount 0 → i ≠ .engineReset 0 → t.sampleCount = s.sampleCount)

/-- 10_state.md R34: ALLOC[c] only grows, by NOTE_ON and NOTE_ON_T, except that ENGINE_RESET sets it to 0. -/
def Obligations.PoolsOnlyGrow : Prop :=
  ∀ (i : Instr) (s t : State) (n : Nat) (c c' : Channel), i.wf = true → exec i s = .next t →
    s.channels.get? n = some c → t.channels.get? n = some c' →
    (i = .engineReset 0 → c'.alloc = 0) ∧ (i ≠ .engineReset 0 → c.alloc.toNat ≤ c'.alloc.toNat) ∧
    (c.alloc.toNat < c'.alloc.toNat →
      (∃ ch slot key vel, i = .noteOn ch slot key vel 0 ∨ i = .noteOnT ch slot key vel 0) ∧
      c'.alloc.toNat = c.alloc.toNat + 1)

/-- 60_exceptions.md R198 and R199: CODE and ERR_CMD keep the first error, MORE is never lost, and nothing clears the
record but a write to ERR and ENGINE_RESET. -/
def Obligations.FirstErrorIsKept : Prop :=
  ∀ (i : Instr) (s t : State), i.wf = true → exec i s = .next t → s.errCode ≠ 0 →
    (∀ d, i ≠ .wr32 0x014 d) → i ≠ .engineReset 0 →
    t.errCode = s.errCode ∧ t.errCmd = s.errCmd ∧ (s.errMore = true → t.errMore = true)

/-! ### The tick and the mix -/

/-- 43_mixer.md R155 to R157, R159, R160: TICK renders and counts down every allocated voice that is not idle, mixes
their samples in visit order, and changes nothing else but LAST_SAMPLE, SAMPLE_COUNT and the answer. -/
def Obligations.TickRule : Prop :=
  ∀ s : State, ∃ t, exec .tick s = .next t ∧
    (∀ n c, s.channels.get? n = some c → ∃ c', t.channels.get? n = some c' ∧ c'.alloc = c.alloc ∧
      ∀ i v, c.voices.get? i = some v → c'.voices.get? i =
        some (if i < c.alloc.toNat ∧ v.ampPh ≠ .idle then v.render.1.countdown else v)) ∧
    t = { s with
      channels := t.channels
      lastSample := mixdown s.contributions
      sampleCount := s.sampleCount + 1
      response := .data32 ((mixdown s.contributions).setWidth 32) }

/-- 43_mixer.md R158: the saturating mix, commutative, with identity 127. -/
def Obligations.MixSaturates : Prop :=
  ∀ a b : Byte, ((mix a b).toNat : Int) = min 255 (max 0 ((a.toNat : Int) + b.toNat - 127)) ∧ mix a b = mix b a ∧
    mix a 127 = a ∧ (a.toNat ≤ 254 → (mix a 128).toNat = a.toNat + 1)

/-- 43_mixer.md R161: what one countdown writes: nothing where DUR is 0 or indefinite, else one sample less, and at 0
the release of 41_voice_engine.md R111 (the envelopes to RELEASE, levels and all else kept). And a voice triggered with
DUR = n is held for n ticks: before tick n it is neither released nor free, and at tick n it is free and in RELEASE. An
indefinite voice is never decremented nor released by ticks. -/
def Obligations.NoteIsHeldForItsDuration : Prop :=
  ∀ v : Voice,
    (v.dur = 0 ∨ v.dur = 0xFFFFFFFF → v.countdown = v) ∧
    (v.dur ≠ 0 → v.dur ≠ 1 → v.dur ≠ 0xFFFFFFFF → v.countdown = { v with dur := v.dur - 1 }) ∧
    (v.dur = 1 → v.countdown = { v.release with dur := 0 }) ∧
    (v.ampPh = .attack →
      let after := fun k => (fun u : Voice => (u.tick none).1)^[k] v
      (∀ n, v.dur.toNat = n → 1 ≤ n → n ≤ 0xFFFFFFFE →
        (∀ k, k < n → (after k).ampPh ≠ .release ∧ (after k).ampPh ≠ .idle ∧ (after k).dur.toNat = n - k) ∧
        (after n).ampPh = .release ∧ (after n).dur = 0) ∧
      (v.dur = 0xFFFFFFFF → ∀ k, (after k).dur = 0xFFFFFFFF ∧ (after k).ampPh ≠ .release ∧ (after k).ampPh ≠ .idle))

/-- 42_envelopes.md R150: a release from level E with step(R) lasts ceil(E / step(R)) ticks, and with R = 0 one tick. -/
def Obligations.ReleaseTailLength : Prop :=
  ∀ v : Voice, v.ampPh = .release → v.dur = 0 → v.ampE ≠ 0 →
    let rate := max 1 (1048576 / (v.snap.envR.toNat * 80))
    let n := if v.snap.envR = 0 then 1 else (v.ampE.toNat + rate - 1) / rate
    let after := fun k => (fun u : Voice => (u.tick none).1)^[k] v
    (∀ k, k < n → (after k).ampPh = .release) ∧ (after n).ampPh = .idle ∧ (after n).ampE = 0

/-! ### Envelopes -/

/-- 42_envelopes.md R142 to R146: one tick of an operator envelope, by its phase. -/
def Obligations.OperatorEnvelopeRules : Prop :=
  ∀ (p : OpParams) (e : BitVec 21),
    let step := fun (t : BitVec 7) => max 1 (1048576 / (t.toNat * 80))
    let target := 1048576 * p.opS.toNat / 100
    let att := opEnvStep p .attack e
    let dec := opEnvStep p .decay e
    att.2.toNat = (if p.opA = 0 then 1048576 else min 1048576 (e.toNat + step p.opA)) ∧
    att.1 = (if att.2.toNat = 1048576 then .decay else .attack) ∧
    dec.2.toNat = (if p.opD = 0 then target else max target (e.toNat - step p.opD)) ∧
    dec.1 = (if dec.2.toNat = target then (if p.loop then .attack else .sustain) else .decay) ∧
    opEnvStep p .sustain e = (.sustain, e) ∧ opEnvStep p .release e = (.release, e) ∧ opEnvStep p .idle e = (.idle, 0)

/-- 42_envelopes.md R147 to R151: one tick of the overall envelope, by its phase. -/
def Obligations.OverallEnvelopeRules : Prop :=
  ∀ (p : Snap) (e : BitVec 21),
    let step := fun (t : BitVec 7) => max 1 (1048576 / (t.toNat * 80))
    let target := 1048576 * p.envS.toNat / 100
    let att := ampEnvStep p .attack e
    let dec := ampEnvStep p .decay e
    let rel := ampEnvStep p .release e
    att.2.toNat = (if p.envA = 0 then 1048576 else min 1048576 (e.toNat + step p.envA)) ∧
    att.1 = (if att.2.toNat = 1048576 then .decay else .attack) ∧
    dec.2.toNat = (if p.envD = 0 then target else max target (e.toNat - step p.envD)) ∧
    dec.1 = (if dec.2.toNat = target then .sustain else .decay) ∧
    rel.2.toNat = (if p.envR = 0 then 0 else e.toNat - step p.envR) ∧
    rel.1 = (if rel.2 = 0 then .idle else .release) ∧
    ampEnvStep p .sustain e = (.sustain, e) ∧ ampEnvStep p .idle e = (.idle, 0)

/-! ### The voice engine -/

/-- 41_voice_engine.md R110: what trigger writes. -/
def Obligations.TriggerRule : Prop :=
  ∀ (v : Voice) (p : Snap) (key vel : BitVec 7),
    let t := v.trigger p key vel
    let glides := v.ampPh ≠ .idle ∧ p.glide ≠ 0
    (glides → t.gFrom = v.base ∧ t.gLen.toNat = p.glide.toNat * 80) ∧
    (¬ glides → t.gFrom = keyInc key ∧ t.gLen = 0) ∧
    t.gTo = keyInc key ∧ t.gPos = 0 ∧ t.base = t.gFrom ∧ t.snap = p ∧ t.key = key ∧ t.vel = vel ∧
    (∀ k, t.phase.get k = 0 ∧ t.opE.get k = 0 ∧ t.opPh.get k = .attack) ∧
    t.ampE = 0 ∧ t.ampPh = .attack ∧ t.fbPrev = 0 ∧ t.lfoPhase = 0 ∧ t.lfoAge = 0 ∧ t.dur = v.dur

/-- 41_voice_engine.md R111: release moves ATTACK, DECAY and SUSTAIN to RELEASE, leaves every level and every other
field, and is idempotent. -/
def Obligations.ReleaseRule : Prop :=
  ∀ v : Voice,
    let moved := fun ph : EnvPhase => if ph = .attack ∨ ph = .decay ∨ ph = .sustain then EnvPhase.release else ph
    v.release.ampPh = moved v.ampPh ∧ (∀ k, v.release.opPh.get k = moved (v.opPh.get k)) ∧
    v.release = { v with ampPh := v.release.ampPh, opPh := v.release.opPh } ∧ v.release.release = v.release

/-- 41_voice_engine.md R114: one step of the glide, with BASE holding each tick's base whole; and from G_POS = 0, as
trigger leaves it, a line over G_LEN ticks that begins at G_FROM, then G_TO. -/
def Obligations.GlideRule : Prop :=
  ∀ (v : Voice) (k : Nat),
    let line := fun n : Nat =>
      if v.gFrom.toNat ≤ v.gTo.toNat then v.gFrom.toNat + (v.gTo.toNat - v.gFrom.toNat) * n / v.gLen.toNat
      else v.gFrom.toNat - (v.gFrom.toNat - v.gTo.toNat) * n / v.gLen.toNat
    let u := Voice.glideStep^[k] v
    (v.gLen.toNat ≤ v.gPos.toNat → v.glideBase = v.gTo.toNat ∧ v.glideStep.gPos = v.gPos) ∧
    (v.gPos.toNat < v.gLen.toNat →
      v.glideBase = line v.gPos.toNat ∧ v.glideStep.gPos.toNat = v.gPos.toNat + 1) ∧
    v.glideStep = { v with base := v.glideStep.base, gPos := v.glideStep.gPos } ∧
    v.glideStep.base.toNat = v.glideBase ∧
    (v.gPos = 0 → u.glideBase = (if k < v.gLen.toNat then line k else v.gTo.toNat)) ∧
    (v.gPos = 0 → 0 < v.gLen.toNat → v.glideBase = v.gFrom.toNat)

/-- 41_voice_engine.md R115 and R116: the LFO's ramp, its factor, what its step writes, and their ranges. -/
def Obligations.LfoRanges : Prop :=
  ∀ v : Voice,
    let la := v.snap.lfoAttack.toNat * 80
    v.lfoRamp = (if la = 0 then 256 else min v.lfoAge.toNat la * 256 / la) ∧
    v.lfoMod = (if v.snap.lfoSpeed = 0 then 0
      else sin (BitVec.ofNat 10 (v.lfoPhase.toNat / 2 ^ 22)) * (v.snap.lfoPmd.toNat : Int) * (v.lfoRamp : Int)) ∧
    v.lfoStep = { v with lfoPhase := v.lfoStep.lfoPhase, lfoAge := v.lfoStep.lfoAge } ∧
    v.lfoStep.lfoPhase.toNat = (v.lfoPhase.toNat + v.snap.lfoSpeed.toNat * 53687) % 2 ^ 32 ∧
    v.lfoStep.lfoAge.toNat = min (v.lfoAge.toNat + 1) 8000 ∧
    v.lfoRamp ≤ 256 ∧ (v.snap.lfoAttack ≠ 0 → v.lfoAge = 0 → v.lfoRamp = 0) ∧
    (la ≤ v.lfoAge.toNat → v.lfoRamp = 256) ∧
    (v.snap.lfoPmd.toNat ≤ 100 → -104832000 ≤ v.lfoMod ∧ v.lfoMod ≤ 104832000)

/-- 41_voice_engine.md R117, R118, R119: an operator's increment, in ratio mode from the base increment and in fixed
mode from COARSE and FINE alone; with the LFO factor in its range the modulated increment is never negative. A DETUNE
of 50 is a factor of exactly 1, and COARSE = FINE = 0 is a zero-frequency operator. -/
def Obligations.OperatorIncrement : Prop :=
  ∀ (p : OpParams) (base : Nat) (m : Int), -104832000 ≤ m → m ≤ 104832000 →
    let ratio := base * (100 * p.coarse.toNat + p.fine.toNat) / 100
    let inc2 : Nat := (if p.fixed then 2 ^ p.coarse.toNat * (100 + p.fine.toNat) * 2 ^ 32 / 800000
      else ratio * (4046 + p.detune.toNat) / 4096) % 2 ^ 32
    let x := (inc2 : Int) + Int.fdiv ((inc2 : Int) * m) (2 ^ 31)
    0 ≤ x ∧ ((opInc p base m).toNat : Int) = x % 2 ^ 32 ∧
    (p.fixed = false → p.detune = 50 → inc2 = ratio % 2 ^ 32) ∧
    (p.fixed = false → p.coarse = 0 → p.fine = 0 → opInc p base m = 0)

/-- 41_voice_engine.md R120 and R121: the feedback term and its range, 0 at FEEDBACK = 50 and on the first tick after a
trigger; and the modulation of an operator: the outputs of the operators with an edge to it, and the feedback term at the
feedback operator. -/
def Obligations.FeedbackTermRange : Prop :=
  ∀ (v : Voice) (k : OpIx) (out : Quad Int) (p : Snap) (key vel : BitVec 7),
    let row := algRow v.snap.alg
    v.fbTerm = Int.fdiv (v.fbPrev.toInt * ((v.snap.feedback.toNat : Int) - 50)) 64 ∧
    (v.FeedbackInRange → v.snap.feedback.toNat ≤ 100 → -3200 ≤ v.fbTerm ∧ v.fbTerm ≤ 3199) ∧
    (v.snap.feedback = 50 → v.fbTerm = 0) ∧ (v.trigger p key vel).fbTerm = 0 ∧
    v.modIn k out = (OpIx.all.map fun j => if (j, k) ∈ row.edges then out.get j else 0).sum +
      (if k = row.fbop then v.fbTerm else 0)

/-- 41_voice_engine.md R122, R123 and R124: the sine index of a phase and a modulation, an operator's amplitude, and its
output from the sine at the index of its phase and of the modulation by this tick's outputs; and the ranges. -/
def Obligations.OperatorOutputRange : Prop :=
  (∀ (phase : BitVec 32) (pm : Int),
    ((phaseIndex phase pm).toNat : Int) = ((phase.toNat : Int) + pm * 2 ^ 20) % 2 ^ 32 / 2 ^ 22) ∧
  ∀ (v : Voice) (k : OpIx),
    let level := (v.snap.op.get k).level.toNat
    let idx := phaseIndex (v.phase.get k) (v.modIn k v.outputs)
    v.opAmp k = level * ((v.opE.get k).toNat / 256) / 100 ∧
    v.outputs.get k = Int.fdiv (sin idx * (v.opAmp k : Int)) 4096 ∧
    (level ≤ 100 → (v.opE.get k).toNat ≤ 1048576 →
      v.opAmp k ≤ 4096 ∧ -4095 ≤ v.outputs.get k ∧ v.outputs.get k ≤ 4095)

/-- 41_voice_engine.md R127, R128 and R129: a render's sample, from the sum of the carriers' outputs, the overall level
after this tick's step, and the volume and velocity gain; at VOLUME = 0 or VEL = 0 it is 128; and the ranges. -/
def Obligations.SilentVoiceOutputs128 : Prop :=
  ∀ v : Voice,
    let out := v.advance.outputs
    let level := (ampEnvStep v.snap v.ampPh v.ampE).2.toNat
    let cs := (OpIx.all.map fun k => if k ∈ (algRow v.snap.alg).carriers then out.get k else 0).sum
    let a1 := Int.fdiv (cs * (level / 256 : Nat)) 4096
    let gain := v.snap.volume.toNat * v.vel.toNat * 4096 / 12700
    let a2 := Int.fdiv (a1 * (gain : Int)) 4096
    (v.render.2.toNat : Int) = min 255 (max 0 (128 + Int.fdiv a2 32)) ∧
    (v.snap.volume = 0 ∨ v.vel = 0 → gain = 0 ∧ v.render.2 = 128) ∧
    (v.snap.volume.toNat ≤ 100 → gain ≤ 4096 ∧ (gain = 4096 ↔ v.snap.volume = 100 ∧ v.vel = 127)) ∧
    (v.snap.InRange → v.LevelsInRange → -16380 ≤ cs ∧ cs ≤ 16380 ∧ -16380 ≤ a1 ∧ a1 ≤ 16380)

/-- 41_voice_engine.md R130: the sample is 128 + floor(a2 / 32), clamped to [0, 255]. -/
def Obligations.OutputSaturates : Prop :=
  ∀ a2 : Int, ((outMap a2).toNat : Int) = min 255 (max 0 (128 + Int.fdiv a2 32))

/-- 41_voice_engine.md R131: a voice that goes idle in a tick outputs 128 in it, and its operators are cleared. -/
def Obligations.GoingIdleClearsOperators : Prop :=
  ∀ v : Voice, v.render.1.ampPh = .idle →
    v.render.2 = 128 ∧ ∀ k, v.render.1.opPh.get k = .idle ∧ v.render.1.opE.get k = 0

/-- 41_voice_engine.md R113, R125, R126, R131: every register render writes, and that it writes no other. BASE and G_POS
are those of the glide step, LFO_PHASE and LFO_AGE those of the LFO step; the envelopes step before the operators run,
and `a` is the voice whose operators run in this tick. -/
def Obligations.RenderFrame : Prop :=
  ∀ v : Voice, let t := v.render.1
    let a := v.advance
    a = { v with
      base := v.glideStep.base, gPos := v.glideStep.gPos, lfoPhase := v.lfoStep.lfoPhase, lfoAge := v.lfoStep.lfoAge
      ampPh := a.ampPh, ampE := a.ampE, opPh := a.opPh, opE := a.opE } ∧
    (a.ampPh, a.ampE) = ampEnvStep v.snap v.ampPh v.ampE ∧
    (∀ k, (a.opPh.get k, a.opE.get k) = opEnvStep (v.snap.op.get k) (v.opPh.get k) (v.opE.get k)) ∧
    t = { a with
      phase := t.phase, fbPrev := BitVec.ofInt 13 (a.outputs.get (algRow v.snap.alg).fbop)
      opPh := t.opPh, opE := t.opE } ∧
    (∀ k, t.phase.get k = v.phase.get k + opInc (v.snap.op.get k) v.glideBase v.lfoMod) ∧
    (t.ampPh ≠ .idle → t.opPh = a.opPh ∧ t.opE = a.opE) ∧
    (t.ampPh = .idle → ∀ k, t.opPh.get k = .idle ∧ t.opE.get k = 0)

/-! ### Operands and tables -/

/-- 30_encoding.md R79. -/
def Obligations.PatchLegality : Prop :=
  ∀ byte : Nat → Byte, patchLegal byte = true ↔
    (1 ≤ (byte 0).toNat ∧ (byte 0).toNat ≤ 11) ∧
    (∀ off, 1 ≤ off → off ≤ 10 → (byte off).toNat ≤ 100) ∧
    ∀ k, 1 ≤ k → k ≤ 4 → let b := 16 + 8 * (k - 1)
      (byte b).toNat ≤ 100 ∧ (byte (b + 1)).toNat / 16 % 8 = 0 ∧ (byte (b + 2)).toNat ≤ 99 ∧
      (byte (b + 3)).toNat ≤ 100 ∧ (byte (b + 4)).toNat ≤ 100 ∧ (byte (b + 5)).toNat ≤ 100 ∧
      (byte (b + 6)).toNat ≤ 100 ∧ (byte (b + 7)).toNat / 2 = 0

/-- 30_encoding.md R77 and R78, 40_commands.md R102: the snapshot of a legal slot holds its bytes. -/
def Obligations.PatchDecode : Prop :=
  ∀ byte : Nat → Byte, patchLegal byte = true →
    let p := decodePatch byte
    p.alg.toNat = (byte 0).toNat ∧ p.volume.toNat = (byte 1).toNat ∧ p.feedback.toNat = (byte 2).toNat ∧
    p.glide.toNat = (byte 3).toNat ∧ p.envA.toNat = (byte 4).toNat ∧ p.envD.toNat = (byte 5).toNat ∧
    p.envS.toNat = (byte 6).toNat ∧ p.envR.toNat = (byte 7).toNat ∧ p.lfoSpeed.toNat = (byte 8).toNat ∧
    p.lfoAttack.toNat = (byte 9).toNat ∧ p.lfoPmd.toNat = (byte 10).toNat ∧
    ∀ k : OpIx, let b := 16 + 8 * (k.num - 1)
      let o := p.op.get k
      o.level.toNat = (byte b).toNat ∧ (o.fixed = true ↔ (byte (b + 1)).toNat / 128 = 1) ∧
      o.coarse.toNat = (byte (b + 1)).toNat % 16 ∧ o.fine.toNat = (byte (b + 2)).toNat ∧
      o.detune.toNat = (byte (b + 3)).toNat ∧ o.opA.toNat = (byte (b + 4)).toNat ∧
      o.opD.toNat = (byte (b + 5)).toNat ∧ o.opS.toNat = (byte (b + 6)).toNat ∧
      (o.loop = true ↔ (byte (b + 7)).toNat % 2 = 1)

/-- 40_commands.md R101, 48_host_sequencer.md R182: the tempo conversion never gives the indefinite value, never falls
as the duration grows, gives 0 at duration 0 exactly above 15000 bpm, and below its saturation is the host's
samplesForDuration. -/
def Obligations.TempoConversion : Prop :=
  ∀ (bpm : BitVec 16) (d : Nat), bpm ≠ 0 →
    ticksToSamples bpm.toNat d < 0xFFFFFFFF ∧ ticksToSamples bpm.toNat d ≤ ticksToSamples bpm.toNat (d + 1) ∧
    (ticksToSamples bpm.toNat 0 = 0 ↔ 15000 < bpm.toNat) ∧
    ticksToSamples bpm.toNat d = min (samplesForDuration bpm d) 0xFFFFFFFE

/-- 44_tables.md R170, with the exact table that R171 lists: each quadrant of the sine; and that it is odd-symmetric,
mirrored in each half, between 13 and 4095 in the first half, and never falls in the first quarter. -/
def Obligations.SineSymmetries : Prop :=
  let listed : List Nat :=
    [13, 38, 63, 88, 113, 138, 163, 188, 213, 239, 264, 289, 314, 339, 364, 389] ++
    [414, 439, 464, 489, 514, 539, 564, 588, 613, 638, 663, 688, 712, 737, 762, 787] ++
    [811, 836, 860, 885, 909, 934, 958, 983, 1007, 1032, 1056, 1080, 1104, 1128, 1153, 1177] ++
    [1201, 1225, 1249, 1273, 1296, 1320, 1344, 1368, 1391, 1415, 1439, 1462, 1485, 1509, 1532, 1555] ++
    [1579, 1602, 1625, 1648, 1671, 1694, 1717, 1739, 1762, 1785, 1807, 1830, 1852, 1875, 1897, 1919] ++
    [1941, 1964, 1986, 2007, 2029, 2051, 2073, 2094, 2116, 2137, 2159, 2180, 2201, 2223, 2244, 2265] ++
    [2285, 2306, 2327, 2348, 2368, 2389, 2409, 2429, 2449, 2470, 2490, 2509, 2529, 2549, 2569, 2588] ++
    [2608, 2627, 2646, 2665, 2684, 2703, 2722, 2741, 2759, 2778, 2796, 2815, 2833, 2851, 2869, 2887] ++
    [2904, 2922, 2940, 2957, 2974, 2992, 3009, 3026, 3043, 3059, 3076, 3093, 3109, 3125, 3141, 3157] ++
    [3173, 3189, 3205, 3221, 3236, 3251, 3267, 3282, 3297, 3311, 3326, 3341, 3355, 3370, 3384, 3398] ++
    [3412, 3426, 3439, 3453, 3466, 3480, 3493, 3506, 3519, 3532, 3544, 3557, 3569, 3581, 3594, 3606] ++
    [3617, 3629, 3641, 3652, 3663, 3675, 3686, 3696, 3707, 3718, 3728, 3739, 3749, 3759, 3769, 3778] ++
    [3788, 3798, 3807, 3816, 3825, 3834, 3843, 3851, 3860, 3868, 3876, 3884, 3892, 3900, 3908, 3915] ++
    [3922, 3929, 3936, 3943, 3950, 3957, 3963, 3969, 3975, 3981, 3987, 3993, 3998, 4004, 4009, 4014] ++
    [4019, 4023, 4028, 4033, 4037, 4041, 4045, 4049, 4053, 4056, 4059, 4063, 4066, 4069, 4071, 4074] ++
    [4076, 4079, 4081, 4083, 4085, 4087, 4088, 4089, 4091, 4092, 4093, 4093, 4094, 4095, 4095, 4095]
  listed.length = 256 ∧
  (∀ r, r < 256 → let q : Int := (listed.getD r 0 : Nat)
    sin (BitVec.ofNat 10 r) = q ∧ sin (BitVec.ofNat 10 (511 - r)) = q ∧
    sin (BitVec.ofNat 10 (512 + r)) = -q ∧ sin (BitVec.ofNat 10 (1023 - r)) = -q) ∧
  ∀ n, n < 512 →
    sin (BitVec.ofNat 10 (n + 512)) = -sin (BitVec.ofNat 10 n) ∧
    sin (BitVec.ofNat 10 (511 - n)) = sin (BitVec.ofNat 10 n) ∧
    13 ≤ sin (BitVec.ofNat 10 n) ∧ sin (BitVec.ofNat 10 n) ≤ 4095 ∧
    (n < 255 → sin (BitVec.ofNat 10 n) ≤ sin (BitVec.ofNat 10 (n + 1)))

/-- 44_tables.md R174: KEYINC[k] is 440 * 2^((k - 69) / 12) * 2^32 / 8000 rounded half up, said with the twelfth powers
of both sides so that every number is an integer. -/
def Obligations.KeyIncrementsAreEqualTempered : Prop :=
  ∀ k, k < 128 →
    let x := (keyInc (BitVec.ofNat 7 k)).toNat
    ((2 * x - 1) * 8000) ^ 12 * 2 ^ 69 ≤ (2 * 440 * 2 ^ 32) ^ 12 * 2 ^ k ∧
    (2 * 440 * 2 ^ 32) ^ 12 * 2 ^ k < ((2 * x + 1) * 8000) ^ 12 * 2 ^ 69

/-- 44_tables.md R172 and R173: the table, by operator numbers; every algorithm's edges go from a lower to a higher
operator, and it has a carrier. -/
def Obligations.AlgorithmTableConstraints : Prop :=
  (algTable.map fun row => (row.edges.map fun e => (e.1.num, e.2.num), row.carriers.map OpIx.num, row.fbop.num)) =
    [([(1, 2), (2, 3), (3, 4)], [4], 1),
     ([(1, 3), (2, 3), (3, 4)], [4], 1),
     ([(1, 4), (2, 3), (3, 4)], [4], 1),
     ([(1, 2), (2, 4), (3, 4)], [4], 1),
     ([(1, 2), (3, 4)], [2, 4], 1),
     ([(1, 2), (1, 3), (1, 4)], [2, 3, 4], 1),
     ([(1, 2)], [2, 3, 4], 1),
     ([], [1, 2, 3, 4], 1),
     ([(1, 2), (2, 3)], [3, 4], 1),
     ([(1, 2), (1, 3), (2, 4), (3, 4)], [4], 1),
     ([(1, 2), (2, 3), (2, 4)], [3, 4], 1)] ∧
  ∀ n, 1 ≤ n → n ≤ 11 →
    let row := algRow (BitVec.ofNat 4 n)
    algTable[n - 1]? = some row ∧
    (∀ e ∈ row.edges, e.1.num < e.2.num) ∧ row.edges.Nodup ∧ row.carriers ≠ [] ∧ row.carriers.Nodup

/-! ### Invariants and isolation -/

/-- The invariant holds at reset. -/
def Obligations.ResetMeetsTheInvariant : Prop := State.reset.Inv

/-- 10_state.md R45, with the ranges of R34, R37 to R42 and 42_envelopes.md R153: every step keeps the invariant. -/
def Obligations.StepKeepsTheInvariant : Prop :=
  ∀ s t : State, s.Inv → step s = .next t → t.Inv

/-- 20_memory.md R65, 70_reset_and_hazards.md R219: what patch RAM holds makes no difference to the samples of voices
already triggered. -/
def Obligations.SoundingVoicesIgnorePatchRam : Prop :=
  ∀ (s : State) (m : Memory) (k : Nat),
    (State.tick^[k] { s with patchRam := m }).lastSample = (State.tick^[k] s).lastSample ∧
    (State.tick^[k] { s with patchRam := m }).channels = (State.tick^[k] s).channels
end

