-- ==== Sys2Proof/Laws/Banks.lean ====
section
/-! SUPPORT. What reading an entry gives after each operation on a bank. -/

namespace Sys2Proof.Machine

variable {α β : Type} {n : Nat}

/-- Two banks with the same entries are the same bank. -/
theorem Bank.eq_of_list {a b : Bank α n} (h : a.list = b.list) : a = b := by
  cases a; cases b; cases h; rfl

theorem Bank.get?_lt {b : Bank α n} {i : Nat} {x : α} (h : b.get? i = some x) : i < n := by
  have := (List.getElem?_eq_some_iff.mp h).1
  rwa [b.length_eq] at this

theorem Bank.get?_some_of_lt (b : Bank α n) {i : Nat} (h : i < n) : ∃ x, b.get? i = some x :=
  ⟨b.list[i]'(by rw [b.length_eq]; exact h), List.getElem?_eq_getElem _⟩

theorem Bank.get?_mem {b : Bank α n} {i : Nat} {x : α} (h : b.get? i = some x) : x ∈ b.list :=
  List.mem_of_getElem? h

@[simp] theorem Bank.get?_fill (x : α) (i : Nat) : (Bank.fill n x).get? i = if i < n then some x else none := by
  simp [Bank.get?, Bank.fill, List.getElem?_replicate]

theorem Bank.mem_fill {x y : α} (h : y ∈ (Bank.fill n x).list) : y = x := List.eq_of_mem_replicate h

theorem Bank.get?_modify (b : Bank α n) (i j : Nat) (f : α → α) :
    (b.modify i f).get? j = if i = j then (b.get? j).map f else b.get? j := by
  simp only [Bank.get?, Bank.modify, List.getElem?_modify]
  split <;> simp

theorem Bank.get?_modify_same {b : Bank α n} {i : Nat} {x : α} (f : α → α) (h : b.get? i = some x) :
    (b.modify i f).get? i = some (f x) := by
  rw [Bank.get?_modify, if_pos rfl, h]; rfl

theorem Bank.get?_modify_other {b : Bank α n} {i j : Nat} (f : α → α) (h : j ≠ i) :
    (b.modify i f).get? j = b.get? j := by
  rw [Bank.get?_modify, if_neg (Ne.symm h)]

theorem mapFirst_eq (f : α → α) (k : Nat) (xs : List α) : mapFirst f k xs = (xs.take k).map f ++ xs.drop k := by
  induction xs generalizing k with
  | nil => cases k <;> rfl
  | cons x xs ih => cases k <;> simp [mapFirst, ih]

theorem Bank.get?_mapFirst (b : Bank α n) (f : α → α) (k i : Nat) :
    (b.mapFirst f k).get? i = if i < k then (b.get? i).map f else b.get? i := by
  simp only [Bank.get?, Bank.mapFirst]
  generalize b.list = xs
  induction xs generalizing k i with
  | nil => cases k <;> simp [Machine.mapFirst]
  | cons x xs ih => cases k <;> cases i <;> simp [Machine.mapFirst, ih]

/-- The loop's first component, when `f` changes an entry without regard to the running value. -/
theorem mapAccumFirst_fst {f : α → β → α × β} {g : α → α} (h : ∀ x acc, (f x acc).1 = g x)
    (k : Nat) (xs : List α) (acc : β) : (mapAccumFirst f k xs acc).1 = mapFirst g k xs := by
  induction xs generalizing k acc with
  | nil => cases k <;> rfl
  | cons x xs ih => cases k <;> simp [mapAccumFirst, mapFirst, h, ih]

/-- The loop's running value is a fold over the entries visited. -/
theorem mapAccumFirst_snd (f : α → β → α × β) (k : Nat) (xs : List α) (acc : β) :
    (mapAccumFirst f k xs acc).2 = (xs.take k).foldl (fun a x => (f x a).2) acc := by
  induction xs generalizing k acc with
  | nil => cases k <;> rfl
  | cons x xs ih => cases k <;> simp [mapAccumFirst, ih]

@[simp] theorem Quad.get_fill (x : α) (k : OpIx) : (Quad.fill x).get k = x := by cases k <;> rfl

@[simp] theorem Quad.get_of (f : OpIx → α) (k : OpIx) : (Quad.of f).get k = f k := by cases k <;> rfl

/-- Two quads that agree on every operator are the same. -/
theorem Quad.eq_of_get {p q : Quad α} (h : ∀ k, p.get k = q.get k) : p = q := by
  cases p; cases q
  have h1 := h .op1; have h2 := h .op2; have h3 := h .op3; have h4 := h .op4
  simp only [Quad.get] at h1 h2 h3 h4
  simp [h1, h2, h3, h4]

theorem Quad.get_set (q : Quad α) (k j : OpIx) (x : α) : (q.set k x).get j = if j = k then x else q.get j := by
  cases k <;> cases j <;> rfl

/-- There are NOPS operators, numbered 1 to NOPS (00_scope.md R6, R14). -/
theorem OpIx.length_all : OpIx.all.length = Config.NOPS ∧ OpIx.all.map OpIx.num = [1, 2, 3, 4] ∧ OpIx.all.Nodup :=
  ⟨rfl, rfl, by decide⟩

theorem OpIx.mem_all (k : OpIx) : k ∈ OpIx.all := by cases k <;> decide

end Sys2Proof.Machine
end

