-- ==== Sys2Proof/Laws/Encoding.lean ====
section
/-! SUPPORT. The command words as numbers, and the field of a word as a number (30_encoding.md R70, R71). -/

namespace Sys2Proof

theorem toNat_append_add {a b : Nat} (x : BitVec a) (y : BitVec b) :
    (x ++ y).toNat = x.toNat * 2 ^ b + y.toNat := by
  rw [BitVec.toNat_append, ← Nat.shiftLeft_add_eq_or_of_lt y.isLt, Nat.shiftLeft_eq]

theorem toNat_field (w : Word) (lo n : Nat) : (w.extractLsb' lo n).toNat = w.toNat / 2 ^ lo % 2 ^ n := by
  rw [BitVec.extractLsb'_toNat, Nat.shiftRight_eq_div_pow]

theorem opWord_toNat (op : BitVec 4) (rest : BitVec 28) : (opWord op rest).toNat = op.toNat + 16 * rest.toNat := by
  rw [opWord, toNat_append_add]; omega

theorem noteWord_toNat (op ch slot : BitVec 4) (key vel : BitVec 7) (rsv : BitVec 6) :
    (noteWord op ch slot key vel rsv).toNat = op.toNat + 16 * ch.toNat + 256 * slot.toNat + 4096 * key.toNat +
      524288 * vel.toNat + 67108864 * rsv.toNat := by
  simp only [noteWord, toNat_append_add]; omega

theorem offWord_toNat (ch : BitVec 4) (unused : BitVec 24) :
    (offWord ch unused).toNat = 3 + 16 * ch.toNat + 256 * unused.toNat := by
  simp only [offWord, toNat_append_add, BitVec.toNat_ofNat]; omega

theorem reservedWord_toNat (op : BitVec 3) (rest : BitVec 28) :
    (reservedWord op rest).toNat = 8 + op.toNat + 16 * rest.toNat := by
  simp only [reservedWord, toNat_append_add, BitVec.toNat_ofNat]; omega

/-- A command word's opcode field is its low four bits. -/
theorem opcode_toNat (w : Word) : (w.extractLsb' 0 4).toNat = w.toNat % 16 := by
  rw [toNat_field]; omega

end Sys2Proof
end

