-- ==== Sys2Proof/Laws/Voice.lean ====
section
/-! SUPPORT. What each operation of the voice engine leaves of each field, and what render and tick do as a whole. -/

namespace Sys2Proof.Machine

variable (v : Voice)

@[simp] theorem Voice.release_snap : v.release.snap = v.snap := rfl
@[simp] theorem Voice.release_key : v.release.key = v.key := rfl
@[simp] theorem Voice.release_vel : v.release.vel = v.vel := rfl
@[simp] theorem Voice.release_dur : v.release.dur = v.dur := rfl
@[simp] theorem Voice.release_ampPh : v.release.ampPh = v.ampPh.released := rfl
@[simp] theorem Voice.release_ampE : v.release.ampE = v.ampE := rfl
@[simp] theorem Voice.release_opE : v.release.opE = v.opE := rfl
@[simp] theorem Voice.release_phase : v.release.phase = v.phase := rfl
@[simp] theorem Voice.release_fbPrev : v.release.fbPrev = v.fbPrev := rfl
@[simp] theorem Voice.release_gFrom : v.release.gFrom = v.gFrom := rfl
@[simp] theorem Voice.release_gTo : v.release.gTo = v.gTo := rfl
@[simp] theorem Voice.release_gLen : v.release.gLen = v.gLen := rfl
@[simp] theorem Voice.release_gPos : v.release.gPos = v.gPos := rfl
@[simp] theorem Voice.release_base : v.release.base = v.base := rfl
@[simp] theorem Voice.release_lfoPhase : v.release.lfoPhase = v.lfoPhase := rfl
@[simp] theorem Voice.release_lfoAge : v.release.lfoAge = v.lfoAge := rfl

@[simp] theorem Voice.glideStep_snap : v.glideStep.snap = v.snap := rfl
@[simp] theorem Voice.glideStep_key : v.glideStep.key = v.key := rfl
@[simp] theorem Voice.glideStep_vel : v.glideStep.vel = v.vel := rfl
@[simp] theorem Voice.glideStep_dur : v.glideStep.dur = v.dur := rfl
@[simp] theorem Voice.glideStep_ampPh : v.glideStep.ampPh = v.ampPh := rfl
@[simp] theorem Voice.glideStep_ampE : v.glideStep.ampE = v.ampE := rfl
@[simp] theorem Voice.glideStep_opPh : v.glideStep.opPh = v.opPh := rfl
@[simp] theorem Voice.glideStep_opE : v.glideStep.opE = v.opE := rfl
@[simp] theorem Voice.glideStep_phase : v.glideStep.phase = v.phase := rfl
@[simp] theorem Voice.glideStep_fbPrev : v.glideStep.fbPrev = v.fbPrev := rfl
@[simp] theorem Voice.glideStep_gFrom : v.glideStep.gFrom = v.gFrom := rfl
@[simp] theorem Voice.glideStep_gTo : v.glideStep.gTo = v.gTo := rfl
@[simp] theorem Voice.glideStep_gLen : v.glideStep.gLen = v.gLen := rfl
@[simp] theorem Voice.glideStep_base : v.glideStep.base = BitVec.ofNat 33 v.glideBase := rfl
@[simp] theorem Voice.glideStep_lfoPhase : v.glideStep.lfoPhase = v.lfoPhase := rfl
@[simp] theorem Voice.glideStep_lfoAge : v.glideStep.lfoAge = v.lfoAge := rfl

@[simp] theorem Voice.lfoStep_snap : v.lfoStep.snap = v.snap := by rw [Voice.lfoStep]
@[simp] theorem Voice.lfoStep_key : v.lfoStep.key = v.key := by rw [Voice.lfoStep]
@[simp] theorem Voice.lfoStep_vel : v.lfoStep.vel = v.vel := by rw [Voice.lfoStep]
@[simp] theorem Voice.lfoStep_dur : v.lfoStep.dur = v.dur := by rw [Voice.lfoStep]
@[simp] theorem Voice.lfoStep_ampPh : v.lfoStep.ampPh = v.ampPh := by rw [Voice.lfoStep]
@[simp] theorem Voice.lfoStep_ampE : v.lfoStep.ampE = v.ampE := by rw [Voice.lfoStep]
@[simp] theorem Voice.lfoStep_opPh : v.lfoStep.opPh = v.opPh := by rw [Voice.lfoStep]
@[simp] theorem Voice.lfoStep_opE : v.lfoStep.opE = v.opE := by rw [Voice.lfoStep]
@[simp] theorem Voice.lfoStep_phase : v.lfoStep.phase = v.phase := by rw [Voice.lfoStep]
@[simp] theorem Voice.lfoStep_fbPrev : v.lfoStep.fbPrev = v.fbPrev := by rw [Voice.lfoStep]
@[simp] theorem Voice.lfoStep_gFrom : v.lfoStep.gFrom = v.gFrom := by rw [Voice.lfoStep]
@[simp] theorem Voice.lfoStep_gTo : v.lfoStep.gTo = v.gTo := by rw [Voice.lfoStep]
@[simp] theorem Voice.lfoStep_gLen : v.lfoStep.gLen = v.gLen := by rw [Voice.lfoStep]
@[simp] theorem Voice.lfoStep_gPos : v.lfoStep.gPos = v.gPos := by rw [Voice.lfoStep]
@[simp] theorem Voice.lfoStep_base : v.lfoStep.base = v.base := by rw [Voice.lfoStep]

@[simp] theorem Voice.ampStep_snap : v.ampStep.snap = v.snap := rfl
@[simp] theorem Voice.ampStep_key : v.ampStep.key = v.key := rfl
@[simp] theorem Voice.ampStep_vel : v.ampStep.vel = v.vel := rfl
@[simp] theorem Voice.ampStep_dur : v.ampStep.dur = v.dur := rfl
@[simp] theorem Voice.ampStep_ampPh : v.ampStep.ampPh = (ampEnvStep v.snap v.ampPh v.ampE).1 := rfl
@[simp] theorem Voice.ampStep_ampE : v.ampStep.ampE = (ampEnvStep v.snap v.ampPh v.ampE).2 := rfl
@[simp] theorem Voice.ampStep_opPh : v.ampStep.opPh = v.opPh := rfl
@[simp] theorem Voice.ampStep_opE : v.ampStep.opE = v.opE := rfl
@[simp] theorem Voice.ampStep_phase : v.ampStep.phase = v.phase := rfl
@[simp] theorem Voice.ampStep_fbPrev : v.ampStep.fbPrev = v.fbPrev := rfl
@[simp] theorem Voice.ampStep_gFrom : v.ampStep.gFrom = v.gFrom := rfl
@[simp] theorem Voice.ampStep_gTo : v.ampStep.gTo = v.gTo := rfl
@[simp] theorem Voice.ampStep_gLen : v.ampStep.gLen = v.gLen := rfl
@[simp] theorem Voice.ampStep_gPos : v.ampStep.gPos = v.gPos := rfl
@[simp] theorem Voice.ampStep_base : v.ampStep.base = v.base := rfl
@[simp] theorem Voice.ampStep_lfoPhase : v.ampStep.lfoPhase = v.lfoPhase := rfl
@[simp] theorem Voice.ampStep_lfoAge : v.ampStep.lfoAge = v.lfoAge := rfl

@[simp] theorem Voice.opsStep_snap : v.opsStep.snap = v.snap := rfl
@[simp] theorem Voice.opsStep_key : v.opsStep.key = v.key := rfl
@[simp] theorem Voice.opsStep_vel : v.opsStep.vel = v.vel := rfl
@[simp] theorem Voice.opsStep_dur : v.opsStep.dur = v.dur := rfl
@[simp] theorem Voice.opsStep_ampPh : v.opsStep.ampPh = v.ampPh := rfl
@[simp] theorem Voice.opsStep_ampE : v.opsStep.ampE = v.ampE := rfl
@[simp] theorem Voice.opsStep_phase : v.opsStep.phase = v.phase := rfl
@[simp] theorem Voice.opsStep_fbPrev : v.opsStep.fbPrev = v.fbPrev := rfl
@[simp] theorem Voice.opsStep_gFrom : v.opsStep.gFrom = v.gFrom := rfl
@[simp] theorem Voice.opsStep_gTo : v.opsStep.gTo = v.gTo := rfl
@[simp] theorem Voice.opsStep_gLen : v.opsStep.gLen = v.gLen := rfl
@[simp] theorem Voice.opsStep_gPos : v.opsStep.gPos = v.gPos := rfl
@[simp] theorem Voice.opsStep_base : v.opsStep.base = v.base := rfl
@[simp] theorem Voice.opsStep_lfoPhase : v.opsStep.lfoPhase = v.lfoPhase := rfl
@[simp] theorem Voice.opsStep_lfoAge : v.opsStep.lfoAge = v.lfoAge := rfl

@[simp] theorem Voice.phaseStep_snap (base : Nat) (m : Int) : (v.phaseStep base m).snap = v.snap := rfl
@[simp] theorem Voice.phaseStep_key (base : Nat) (m : Int) : (v.phaseStep base m).key = v.key := rfl
@[simp] theorem Voice.phaseStep_vel (base : Nat) (m : Int) : (v.phaseStep base m).vel = v.vel := rfl
@[simp] theorem Voice.phaseStep_dur (base : Nat) (m : Int) : (v.phaseStep base m).dur = v.dur := rfl
@[simp] theorem Voice.phaseStep_ampPh (base : Nat) (m : Int) : (v.phaseStep base m).ampPh = v.ampPh := rfl
@[simp] theorem Voice.phaseStep_ampE (base : Nat) (m : Int) : (v.phaseStep base m).ampE = v.ampE := rfl
@[simp] theorem Voice.phaseStep_opPh (base : Nat) (m : Int) : (v.phaseStep base m).opPh = v.opPh := rfl
@[simp] theorem Voice.phaseStep_opE (base : Nat) (m : Int) : (v.phaseStep base m).opE = v.opE := rfl
@[simp] theorem Voice.phaseStep_fbPrev (base : Nat) (m : Int) : (v.phaseStep base m).fbPrev = v.fbPrev := rfl
@[simp] theorem Voice.phaseStep_gFrom (base : Nat) (m : Int) : (v.phaseStep base m).gFrom = v.gFrom := rfl
@[simp] theorem Voice.phaseStep_gTo (base : Nat) (m : Int) : (v.phaseStep base m).gTo = v.gTo := rfl
@[simp] theorem Voice.phaseStep_gLen (base : Nat) (m : Int) : (v.phaseStep base m).gLen = v.gLen := rfl
@[simp] theorem Voice.phaseStep_gPos (base : Nat) (m : Int) : (v.phaseStep base m).gPos = v.gPos := rfl
@[simp] theorem Voice.phaseStep_base (base : Nat) (m : Int) : (v.phaseStep base m).base = v.base := rfl
@[simp] theorem Voice.phaseStep_lfoPhase (base : Nat) (m : Int) : (v.phaseStep base m).lfoPhase = v.lfoPhase := rfl
@[simp] theorem Voice.phaseStep_lfoAge (base : Nat) (m : Int) : (v.phaseStep base m).lfoAge = v.lfoAge := rfl

@[simp] theorem Voice.feedbackStep_snap (out : Quad Int) : (v.feedbackStep out).snap = v.snap := rfl
@[simp] theorem Voice.feedbackStep_key (out : Quad Int) : (v.feedbackStep out).key = v.key := rfl
@[simp] theorem Voice.feedbackStep_vel (out : Quad Int) : (v.feedbackStep out).vel = v.vel := rfl
@[simp] theorem Voice.feedbackStep_dur (out : Quad Int) : (v.feedbackStep out).dur = v.dur := rfl
@[simp] theorem Voice.feedbackStep_ampPh (out : Quad Int) : (v.feedbackStep out).ampPh = v.ampPh := rfl
@[simp] theorem Voice.feedbackStep_ampE (out : Quad Int) : (v.feedbackStep out).ampE = v.ampE := rfl
@[simp] theorem Voice.feedbackStep_opPh (out : Quad Int) : (v.feedbackStep out).opPh = v.opPh := rfl
@[simp] theorem Voice.feedbackStep_opE (out : Quad Int) : (v.feedbackStep out).opE = v.opE := rfl
@[simp] theorem Voice.feedbackStep_phase (out : Quad Int) : (v.feedbackStep out).phase = v.phase := rfl
@[simp] theorem Voice.feedbackStep_fbPrev (out : Quad Int) : (v.feedbackStep out).fbPrev = BitVec.ofInt 13 (out.get (algRow v.snap.alg).fbop) := rfl
@[simp] theorem Voice.feedbackStep_gFrom (out : Quad Int) : (v.feedbackStep out).gFrom = v.gFrom := rfl
@[simp] theorem Voice.feedbackStep_gTo (out : Quad Int) : (v.feedbackStep out).gTo = v.gTo := rfl
@[simp] theorem Voice.feedbackStep_gLen (out : Quad Int) : (v.feedbackStep out).gLen = v.gLen := rfl
@[simp] theorem Voice.feedbackStep_gPos (out : Quad Int) : (v.feedbackStep out).gPos = v.gPos := rfl
@[simp] theorem Voice.feedbackStep_base (out : Quad Int) : (v.feedbackStep out).base = v.base := rfl
@[simp] theorem Voice.feedbackStep_lfoPhase (out : Quad Int) : (v.feedbackStep out).lfoPhase = v.lfoPhase := rfl
@[simp] theorem Voice.feedbackStep_lfoAge (out : Quad Int) : (v.feedbackStep out).lfoAge = v.lfoAge := rfl

@[simp] theorem Voice.off_snap : v.off.snap = v.snap := rfl
@[simp] theorem Voice.off_key : v.off.key = v.key := rfl
@[simp] theorem Voice.off_vel : v.off.vel = v.vel := rfl
@[simp] theorem Voice.off_dur : v.off.dur = 0 := rfl
@[simp] theorem Voice.off_ampPh : v.off.ampPh = v.ampPh.released := rfl
@[simp] theorem Voice.off_ampE : v.off.ampE = v.ampE := rfl
@[simp] theorem Voice.off_opE : v.off.opE = v.opE := rfl
@[simp] theorem Voice.off_phase : v.off.phase = v.phase := rfl
@[simp] theorem Voice.off_fbPrev : v.off.fbPrev = v.fbPrev := rfl
@[simp] theorem Voice.off_gFrom : v.off.gFrom = v.gFrom := rfl
@[simp] theorem Voice.off_gTo : v.off.gTo = v.gTo := rfl
@[simp] theorem Voice.off_gLen : v.off.gLen = v.gLen := rfl
@[simp] theorem Voice.off_gPos : v.off.gPos = v.gPos := rfl
@[simp] theorem Voice.off_base : v.off.base = v.base := rfl
@[simp] theorem Voice.off_lfoPhase : v.off.lfoPhase = v.lfoPhase := rfl
@[simp] theorem Voice.off_lfoAge : v.off.lfoAge = v.lfoAge := rfl

@[simp] theorem Voice.idleCleanup_snap : v.idleCleanup.snap = v.snap := by
  unfold Voice.idleCleanup; split <;> rfl
@[simp] theorem Voice.idleCleanup_key : v.idleCleanup.key = v.key := by
  unfold Voice.idleCleanup; split <;> rfl
@[simp] theorem Voice.idleCleanup_vel : v.idleCleanup.vel = v.vel := by
  unfold Voice.idleCleanup; split <;> rfl
@[simp] theorem Voice.idleCleanup_dur : v.idleCleanup.dur = v.dur := by
  unfold Voice.idleCleanup; split <;> rfl
@[simp] theorem Voice.idleCleanup_ampPh : v.idleCleanup.ampPh = v.ampPh := by
  unfold Voice.idleCleanup; split <;> rfl
@[simp] theorem Voice.idleCleanup_ampE : v.idleCleanup.ampE = v.ampE := by
  unfold Voice.idleCleanup; split <;> rfl
@[simp] theorem Voice.idleCleanup_phase : v.idleCleanup.phase = v.phase := by
  unfold Voice.idleCleanup; split <;> rfl
@[simp] theorem Voice.idleCleanup_fbPrev : v.idleCleanup.fbPrev = v.fbPrev := by
  unfold Voice.idleCleanup; split <;> rfl
@[simp] theorem Voice.idleCleanup_gFrom : v.idleCleanup.gFrom = v.gFrom := by
  unfold Voice.idleCleanup; split <;> rfl
@[simp] theorem Voice.idleCleanup_gTo : v.idleCleanup.gTo = v.gTo := by
  unfold Voice.idleCleanup; split <;> rfl
@[simp] theorem Voice.idleCleanup_gLen : v.idleCleanup.gLen = v.gLen := by
  unfold Voice.idleCleanup; split <;> rfl
@[simp] theorem Voice.idleCleanup_gPos : v.idleCleanup.gPos = v.gPos := by
  unfold Voice.idleCleanup; split <;> rfl
@[simp] theorem Voice.idleCleanup_base : v.idleCleanup.base = v.base := by
  unfold Voice.idleCleanup; split <;> rfl
@[simp] theorem Voice.idleCleanup_lfoPhase : v.idleCleanup.lfoPhase = v.lfoPhase := by
  unfold Voice.idleCleanup; split <;> rfl
@[simp] theorem Voice.idleCleanup_lfoAge : v.idleCleanup.lfoAge = v.lfoAge := by
  unfold Voice.idleCleanup; split <;> rfl

@[simp] theorem Voice.countdown_snap : v.countdown.snap = v.snap := by
  unfold Voice.countdown; split
  · dsimp only; split <;> rfl
  · rfl
@[simp] theorem Voice.countdown_key : v.countdown.key = v.key := by
  unfold Voice.countdown; split
  · dsimp only; split <;> rfl
  · rfl
@[simp] theorem Voice.countdown_vel : v.countdown.vel = v.vel := by
  unfold Voice.countdown; split
  · dsimp only; split <;> rfl
  · rfl
@[simp] theorem Voice.countdown_ampE : v.countdown.ampE = v.ampE := by
  unfold Voice.countdown; split
  · dsimp only; split <;> rfl
  · rfl
@[simp] theorem Voice.countdown_opE : v.countdown.opE = v.opE := by
  unfold Voice.countdown; split
  · dsimp only; split <;> rfl
  · rfl
@[simp] theorem Voice.countdown_phase : v.countdown.phase = v.phase := by
  unfold Voice.countdown; split
  · dsimp only; split <;> rfl
  · rfl
@[simp] theorem Voice.countdown_fbPrev : v.countdown.fbPrev = v.fbPrev := by
  unfold Voice.countdown; split
  · dsimp only; split <;> rfl
  · rfl
@[simp] theorem Voice.countdown_gFrom : v.countdown.gFrom = v.gFrom := by
  unfold Voice.countdown; split
  · dsimp only; split <;> rfl
  · rfl
@[simp] theorem Voice.countdown_gTo : v.countdown.gTo = v.gTo := by
  unfold Voice.countdown; split
  · dsimp only; split <;> rfl
  · rfl
@[simp] theorem Voice.countdown_gLen : v.countdown.gLen = v.gLen := by
  unfold Voice.countdown; split
  · dsimp only; split <;> rfl
  · rfl
@[simp] theorem Voice.countdown_gPos : v.countdown.gPos = v.gPos := by
  unfold Voice.countdown; split
  · dsimp only; split <;> rfl
  · rfl
@[simp] theorem Voice.countdown_base : v.countdown.base = v.base := by
  unfold Voice.countdown; split
  · dsimp only; split <;> rfl
  · rfl
@[simp] theorem Voice.countdown_lfoPhase : v.countdown.lfoPhase = v.lfoPhase := by
  unfold Voice.countdown; split
  · dsimp only; split <;> rfl
  · rfl
@[simp] theorem Voice.countdown_lfoAge : v.countdown.lfoAge = v.lfoAge := by
  unfold Voice.countdown; split
  · dsimp only; split <;> rfl
  · rfl

@[simp] theorem Voice.release_opPh (k : OpIx) : v.release.opPh.get k = (v.opPh.get k).released := by
  simp [Voice.release]

theorem EnvPhase.released_eq_idle (ph : EnvPhase) : ph.released = .idle ↔ ph = .idle := by
  cases ph <;> simp [EnvPhase.released]

/-- release() is idempotent (41_voice_engine.md R111). -/
theorem EnvPhase.released_released (ph : EnvPhase) : ph.released.released = ph.released := by cases ph <;> rfl

@[simp] theorem Voice.opsStep_opPh (k : OpIx) : v.opsStep.opPh.get k = (v.opEnv k).1 := by simp [Voice.opsStep]
@[simp] theorem Voice.opsStep_opE (k : OpIx) : v.opsStep.opE.get k = (v.opEnv k).2 := by simp [Voice.opsStep]
@[simp] theorem Voice.phaseStep_phase (base : Nat) (m : Int) (k : OpIx) :
    (v.phaseStep base m).phase.get k = v.phase.get k + opInc (v.snap.op.get k) base m := by simp [Voice.phaseStep]

/-! ### The voice before its operators run -/

@[simp] theorem Voice.advance_snap : v.advance.snap = v.snap := by simp [Voice.advance]
@[simp] theorem Voice.advance_key : v.advance.key = v.key := by simp [Voice.advance]
@[simp] theorem Voice.advance_vel : v.advance.vel = v.vel := by simp [Voice.advance]
@[simp] theorem Voice.advance_dur : v.advance.dur = v.dur := by simp [Voice.advance]
@[simp] theorem Voice.advance_ampPh : v.advance.ampPh = (ampEnvStep v.snap v.ampPh v.ampE).1 := by simp [Voice.advance]
@[simp] theorem Voice.advance_ampE : v.advance.ampE = (ampEnvStep v.snap v.ampPh v.ampE).2 := by simp [Voice.advance]
@[simp] theorem Voice.advance_phase : v.advance.phase = v.phase := by simp [Voice.advance]
@[simp] theorem Voice.advance_fbPrev : v.advance.fbPrev = v.fbPrev := by simp [Voice.advance]
@[simp] theorem Voice.advance_gFrom : v.advance.gFrom = v.gFrom := by simp [Voice.advance]
@[simp] theorem Voice.advance_gTo : v.advance.gTo = v.gTo := by simp [Voice.advance]
@[simp] theorem Voice.advance_gLen : v.advance.gLen = v.gLen := by simp [Voice.advance]
@[simp] theorem Voice.advance_gPos : v.advance.gPos = v.glideStep.gPos := by simp [Voice.advance]
@[simp] theorem Voice.advance_base : v.advance.base = BitVec.ofNat 33 v.glideBase := by simp [Voice.advance]
@[simp] theorem Voice.advance_lfoPhase : v.advance.lfoPhase = v.lfoStep.lfoPhase := by simp [Voice.advance, Voice.lfoStep]
@[simp] theorem Voice.advance_lfoAge : v.advance.lfoAge = v.lfoStep.lfoAge := by simp [Voice.advance, Voice.lfoStep]

@[simp] theorem Voice.advance_opPh (k : OpIx) : v.advance.opPh.get k = (v.opEnv k).1 := by
  simp [Voice.advance, Voice.opEnv]
@[simp] theorem Voice.advance_opE (k : OpIx) : v.advance.opE.get k = (v.opEnv k).2 := by
  simp [Voice.advance, Voice.opEnv]

/-! ### The voice after render -/

@[simp] theorem Voice.render_snap : v.render.1.snap = v.snap := by simp [Voice.render]
@[simp] theorem Voice.render_key : v.render.1.key = v.key := by simp [Voice.render]
@[simp] theorem Voice.render_vel : v.render.1.vel = v.vel := by simp [Voice.render]
@[simp] theorem Voice.render_dur : v.render.1.dur = v.dur := by simp [Voice.render]
@[simp] theorem Voice.render_ampPh : v.render.1.ampPh = (ampEnvStep v.snap v.ampPh v.ampE).1 := by simp [Voice.render]
@[simp] theorem Voice.render_ampE : v.render.1.ampE = (ampEnvStep v.snap v.ampPh v.ampE).2 := by simp [Voice.render]
@[simp] theorem Voice.render_gFrom : v.render.1.gFrom = v.gFrom := by simp [Voice.render]
@[simp] theorem Voice.render_gTo : v.render.1.gTo = v.gTo := by simp [Voice.render]
@[simp] theorem Voice.render_gLen : v.render.1.gLen = v.gLen := by simp [Voice.render]
@[simp] theorem Voice.render_gPos : v.render.1.gPos = v.glideStep.gPos := by simp [Voice.render]
@[simp] theorem Voice.render_base : v.render.1.base = BitVec.ofNat 33 v.glideBase := by simp [Voice.render]
@[simp] theorem Voice.render_lfoPhase : v.render.1.lfoPhase = v.lfoStep.lfoPhase := by simp [Voice.render]
@[simp] theorem Voice.render_lfoAge : v.render.1.lfoAge = v.lfoStep.lfoAge := by simp [Voice.render]

@[simp] theorem Voice.render_phase (k : OpIx) :
    v.render.1.phase.get k = v.phase.get k + opInc (v.snap.op.get k) v.glideBase v.glideStep.lfoMod := by
  simp [Voice.render]

@[simp] theorem Voice.render_fbPrev :
    v.render.1.fbPrev = BitVec.ofInt 13 (v.advance.outputs.get (algRow v.snap.alg).fbop) := by
  simp [Voice.render]

/-- An operator's output is a sine value scaled by its amplitude (41_voice_engine.md R124). -/
theorem Voice.outputs_get (k : OpIx) : ∃ idx, v.outputs.get k = opOut idx (v.opAmp k) := by
  cases k <;> simp only [Voice.outputs, OpIx.all, List.foldl, Quad.get_set, reduceCtorEq, if_true, if_false] <;>
    exact ⟨_, rfl⟩

/-- An idle voice's operators are cleared, any other voice is left (41_voice_engine.md R131). -/
theorem Voice.idleCleanup_ops :
    (v.ampPh = .idle → v.idleCleanup.opPh = Quad.fill .idle ∧ v.idleCleanup.opE = Quad.fill 0) ∧
    (v.ampPh ≠ .idle → v.idleCleanup = v) := by
  unfold Voice.idleCleanup
  constructor <;> intro h <;> simp [h]

/-- After render an idle voice's operators are cleared, and any other voice's are those of its envelope steps. -/
theorem Voice.render_ops :
    (v.render.1.ampPh = .idle → v.render.1.opPh = Quad.fill .idle ∧ v.render.1.opE = Quad.fill 0) ∧
    (v.render.1.ampPh ≠ .idle → v.render.1.opPh = v.advance.opPh ∧ v.render.1.opE = v.advance.opE) := by
  have h := Voice.idleCleanup_ops ((v.advance.phaseStep v.glideBase v.glideStep.lfoMod).feedbackStep v.advance.outputs)
  simp only [Voice.render, Voice.idleCleanup_ampPh]
  exact ⟨h.1, fun hne => by rw [h.2 hne]; exact ⟨rfl, rfl⟩⟩

/-! ### The countdown (43_mixer.md R161) -/

/-- Everything the countdown can do: nothing, or one sample less, and at 0 a release. -/
theorem Voice.countdown_cases :
    ((v.dur = 0 ∨ v.dur = 0xFFFFFFFF#32) ∧ v.countdown = v) ∨
    (v.dur ≠ 0 ∧ v.dur ≠ 0xFFFFFFFF#32 ∧ v.dur ≠ 1 ∧ v.countdown = { v with dur := v.dur - 1 }) ∨
    (v.dur = 1 ∧ v.countdown = { v.release with dur := 0 }) := by
  unfold Voice.countdown
  split
  · rename_i h
    dsimp only
    split
    · rename_i h1
      have : v.dur = 1 := by bv_omega
      right; right
      exact ⟨this, by simp [Voice.release, this]⟩
    · rename_i h1
      right; left
      exact ⟨h.1, h.2, by bv_omega, rfl⟩
  · left
    refine ⟨?_, rfl⟩
    by_cases h : v.dur = 0 <;> simp_all

/-! ### The tick -/

/-- The voice after a tick, which does not depend on the running mix (43_mixer.md R156). -/
def Voice.ticked (v : Voice) : Voice := if v.released then v else v.render.1.countdown

theorem Voice.tick_fst (acc : Option Byte) : (v.tick acc).1 = v.ticked := by
  unfold Voice.tick Voice.ticked; split <;> rfl

theorem Channel.tick_fst (ch : Channel) (acc : Option Byte) : (ch.tick acc).1 = ch.mapAllocated Voice.ticked := by
  have h : (ch.voices.mapAccumFirst Voice.tick ch.alloc.toNat acc).1 = ch.voices.mapFirst Voice.ticked ch.alloc.toNat :=
    Bank.eq_of_list (mapAccumFirst_fst (fun x a => Voice.tick_fst x a) _ _ _)
  simp only [Channel.tick, Channel.mapAllocated, h]

/-- A tick maps every allocated voice. -/
theorem State.tickVoices_fst (s : State) :
    s.tickVoices.1 = s.channels.mapFirst (fun ch => ch.mapAllocated Voice.ticked) Config.NCH :=
  Bank.eq_of_list (mapAccumFirst_fst (fun x a => Channel.tick_fst x a) _ _ _)

end Sys2Proof.Machine
end

