-- ==== Sys2Proof/Laws/Envelope.lean ====
section
/-! SUPPORT. The ranges of envelope levels (42_envelopes.md R153) and of operator outputs (41_voice_engine.md R123,
R124), which phases a tick can reach, and what mod_in reads. -/

namespace Sys2Proof.Machine

/-! ### Levels -/

theorem envRise_le (t e : Nat) : envRise t e ≤ 1048576 := by
  unfold envRise; split <;> simp [Config.EFULL]

theorem sus_le {level : Nat} (h : level ≤ 100) : sus level ≤ 1048576 := by
  unfold sus Config.EFULL; omega

theorem envFall_le {t target e : Nat} (hg : target ≤ 1048576) (he : e ≤ 1048576) : envFall t target e ≤ 1048576 := by
  unfold envFall; split <;> omega

theorem level_toNat {n : Nat} (h : n ≤ 1048576) : (BitVec.ofNat 21 n).toNat = n := by
  rw [BitVec.toNat_ofNat, Nat.mod_eq_of_lt (by omega)]

theorem envAttack_le (t : BitVec 7) (e : BitVec 21) : (envAttack t e).2.toNat ≤ 1048576 := by
  simp only [envAttack, level_toNat (envRise_le _ _)]; exact envRise_le _ _

theorem envFallTo_le (t : BitVec 7) {target : Nat} (during after : EnvPhase) {e : BitVec 21}
    (hg : target ≤ 1048576) (he : e.toNat ≤ 1048576) :
    (envFallTo t target during after e).2.toNat ≤ 1048576 := by
  simp only [envFallTo, level_toNat (envFall_le hg he)]; exact envFall_le hg he

theorem opEnvStep_le {p : OpParams} (hp : p.opS.toNat ≤ 100) (ph : EnvPhase) {e : BitVec 21}
    (he : e.toNat ≤ 1048576) : (opEnvStep p ph e).2.toNat ≤ 1048576 := by
  cases ph <;> simp only [opEnvStep]
  · simp
  · exact envAttack_le _ _
  · exact envFallTo_le _ _ _ (sus_le hp) he
  · exact he
  · exact he

theorem ampEnvStep_le {p : Snap} (hp : p.envS.toNat ≤ 100) (ph : EnvPhase) {e : BitVec 21}
    (he : e.toNat ≤ 1048576) : (ampEnvStep p ph e).2.toNat ≤ 1048576 := by
  cases ph <;> simp only [ampEnvStep]
  · simp
  · exact envAttack_le _ _
  · exact envFallTo_le _ _ _ (sus_le hp) he
  · exact he
  · exact envFallTo_le _ _ _ (by omega) he

/-- The overall envelope reaches RELEASE by no tick, and IDLE only from RELEASE. -/
theorem ampEnvStep_phase (p : Snap) (ph : EnvPhase) (e : BitVec 21) :
    ((ampEnvStep p ph e).1 = .release → ph = .release) ∧
    ((ampEnvStep p ph e).1 = .idle → ph = .release ∨ ph = .idle) := by
  cases ph <;> simp only [ampEnvStep, envAttack, envFallTo] <;> (try split) <;> simp

/-- An overall envelope that is IDLE after a tick is at level 0 (R150, R151). -/
theorem ampEnvStep_idle (p : Snap) (ph : EnvPhase) (e : BitVec 21) :
    (ampEnvStep p ph e).1 = .idle → (ampEnvStep p ph e).2 = 0 := by
  cases ph <;> simp only [ampEnvStep, envAttack, envFallTo] <;> (try split) <;> simp_all

/-! ### Outputs -/

theorem qsin_range (i : Nat) : 0 ≤ qsin i ∧ qsin i ≤ 4095 := by
  have h : ∀ x ∈ qsinTable, x ≤ 4095 := by decide +kernel
  have : qsinTable.getD i 0 ≤ 4095 := by
    rw [List.getD_eq_getElem?_getD]
    cases e : qsinTable[i]? with
    | none => simp
    | some x => simpa using h x (List.mem_of_getElem? e)
  simp only [qsin]
  omega

theorem sin_range (idx : BitVec 10) : -4095 ≤ sin idx ∧ sin idx ≤ 4095 := by
  have h := qsin_range
  unfold sin
  dsimp only
  split
  · have := h (idx.toNat % 256); omega
  · have := h (255 - idx.toNat % 256); omega
  · have := h (idx.toNat % 256); omega
  · have := h (255 - idx.toNat % 256); omega

theorem opOut_range (idx : BitVec 10) {amp : Nat} (h : amp ≤ 4096) :
    -4095 ≤ opOut idx amp ∧ opOut idx amp ≤ 4095 := by
  have := sin_range idx
  simp only [opOut, asr]
  constructor
  · apply Int.le_ediv_of_mul_le (by norm_num); push_cast; nlinarith
  · apply Int.ediv_le_of_le_mul (by norm_num); push_cast; nlinarith

theorem Voice.opAmp_le {v : Voice} {k : OpIx} (h : (v.snap.op.get k).level.toNat ≤ 100)
    (h2 : (v.opE.get k).toNat ≤ 1048576) : v.opAmp k ≤ 4096 := by
  simp only [Voice.opAmp]
  have h3 : (v.opE.get k).toNat.shiftRight 8 ≤ 4096 := by
    show (v.opE.get k).toNat >>> 8 ≤ 4096
    rw [Nat.shiftRight_eq_div_pow]; omega
  apply Nat.div_le_of_le_mul
  calc _ ≤ 100 * 4096 := Nat.mul_le_mul h h3

/-- Every row of the table, and the empty row of any other number: edges rise, none is repeated, nor is a carrier
(44_tables.md R172). -/
theorem algRow_rises (a : BitVec 4) :
    (∀ e ∈ (algRow a).edges, e.1.num < e.2.num) ∧ (algRow a).edges.Nodup ∧ (algRow a).carriers.Nodup := by
  have h : ∀ i : Fin 16, (∀ e ∈ (algRow (.ofFin i)).edges, e.1.num < e.2.num) ∧ (algRow (.ofFin i)).edges.Nodup ∧
    (algRow (.ofFin i)).carriers.Nodup := by decide +kernel
  exact h a.toFin

/-- mod_in reads only the outputs of the operators before it, so every modulator's output is this tick's
(41_voice_engine.md R120). -/
theorem Voice.modIn_congr (v : Voice) (k : OpIx) {out out' : Quad Int}
    (h : ∀ j, j.num < k.num → out.get j = out'.get j) : v.modIn k out = v.modIn k out' := by
  simp only [Voice.modIn]
  congr 2
  apply List.map_congr_left
  intro e he
  rw [List.mem_filter, beq_iff_eq] at he
  exact h _ (he.2 ▸ (algRow_rises _).1 e he.1)

end Sys2Proof.Machine
end

