-- ==== Sys2Proof/Laws/Flags.lean ====
section
/-! SUPPORT. The bits of the status words, and a channel after all its voices are released. -/

namespace Sys2Proof.Machine

theorem bitsToNat_lt (l : List Bool) : bitsToNat l < 2 ^ l.length := by
  induction l with
  | nil => simp [bitsToNat]
  | cons b l ih => simp only [bitsToNat, List.length_cons, pow_succ]; split <;> omega
theorem testBit_bitsToNat (l : List Bool) (i : Nat) : (bitsToNat l).testBit i = (l[i]?).getD false := by
  induction l generalizing i with
  | nil => simp [bitsToNat]
  | cons b l ih =>
    cases i with
    | zero => cases b <;> simp [bitsToNat, Nat.testBit_zero]
    | succ i =>
      rw [Nat.testBit_succ]
      have : ((if b = true then 1 else 0) + 2 * bitsToNat l) / 2 = bitsToNat l := by split <;> omega
      simp only [bitsToNat, this, ih]; simp

theorem Channel.allocated_length_le (c : Channel) : c.allocated.length ≤ 8 := by
  have := c.voices.length_eq
  simp [Channel.allocated, this]
theorem Channel.allocated_getElem? {c : Channel} (i : Nat) :
    c.allocated[i]? = if i < c.alloc.toNat then c.voices.get? i else none := by
  simp [Channel.allocated, Bank.get?, List.getElem?_take]

theorem Channel.heldWord_getLsbD (c : Channel) (i : Nat) :
    c.heldWord.getLsbD i = ((c.allocated[i]?).map fun v => !v.free).getD false := by
  have h1 := bitsToNat_lt (c.allocated.map fun v => !v.free)
  have h2 := Channel.allocated_length_le c
  rw [List.length_map] at h1
  have h3 : 2 ^ c.allocated.length ≤ 2 ^ 8 := Nat.pow_le_pow_right (by norm_num) h2
  rw [Channel.heldWord, BitVec.getLsbD_ofNat, testBit_bitsToNat]
  by_cases h : i < 32
  · simp [h]
  · simp [h]; rw [List.getElem?_eq_none (by omega)]; rfl
theorem Channel.statusWord_getLsbD (c : Channel) (i : Nat) :
    c.statusWord.getLsbD i =
    if i < 5 then c.alloc.getLsbD i else if i < 16 then false else ((c.allocated[i - 16]?).map fun v => !v.released).getD false := by
  have h1 := bitsToNat_lt (c.allocated.map fun v => !v.released)
  have h2 := Channel.allocated_length_le c
  rw [List.length_map] at h1
  have h3 : 2 ^ c.allocated.length ≤ 2 ^ 8 := Nat.pow_le_pow_right (by norm_num) h2
  have hal := c.alloc.isLt
  have : c.alloc.toNat + 65536 * bitsToNat (c.allocated.map fun v => !v.released) = 2 ^ 16 * bitsToNat (c.allocated.map fun v => !v.released) + c.alloc.toNat := by omega
  rw [Channel.statusWord, BitVec.getLsbD_ofNat, this, Nat.testBit_two_pow_mul_add _ (by omega), testBit_bitsToNat]
  by_cases h : i < 16
  · simp only [h, if_true, show i < 32 by omega, decide_true, Bool.true_and]
    by_cases h' : i < 5
    · simp [h', BitVec.getLsbD]
    · simp [h']; exact Nat.testBit_lt_two_pow (lt_of_lt_of_le hal (Nat.pow_le_pow_right (by norm_num) (by omega)))
  · simp only [h, if_false, show ¬ i < 5 by omega]
    by_cases h' : i < 32
    · simp [h']
    · simp [h']; rw [List.getElem?_eq_none (by omega)]; rfl

theorem Channel.off_get? (c : Channel) : ∀ i v, c.voices.get? i = some v →
        c.off.voices.get? i = some (if i < c.alloc.toNat then { v.release with dur := 0 } else v) := by
  intro i v hv
  show (c.voices.mapFirst Voice.off c.alloc.toNat).get? i = _
  rw [Bank.get?_mapFirst, hv]; split <;> rfl
theorem Channel.off_allocated (c : Channel) : c.off.allocated = c.allocated.map Voice.off := by
  simp only [Channel.off, Channel.mapAllocated, Channel.allocated, Bank.mapFirst, mapFirst_eq]
  rw [List.take_append, List.take_of_length_le (by simp)]
  by_cases h : c.alloc.toNat ≤ c.voices.list.length
  · simp [h]
  · simp; right; omega
theorem Channel.off_heldWord (c : Channel) : c.off.heldWord = 0 := by
  apply BitVec.eq_of_getLsbD_eq; intro i hi
  rw [Channel.heldWord_getLsbD, Channel.off_allocated, List.getElem?_map]
  cases c.allocated[i]? <;> simp [Voice.free, Voice.off]


end Sys2Proof.Machine
end

