-- ==== Sys2Proof/Laws/State.lean ====
section
/-! SUPPORT. One lemma per field of State and per update of the machine, each true by unfolding. -/

namespace Sys2Proof.Machine

variable (s : State)

@[simp] theorem State.respond_dur (r : BusResponse) : (s.respond r).dur = s.dur := rfl
@[simp] theorem State.respond_errCode (r : BusResponse) : (s.respond r).errCode = s.errCode := rfl
@[simp] theorem State.respond_errMore (r : BusResponse) : (s.respond r).errMore = s.errMore := rfl
@[simp] theorem State.respond_errCmd (r : BusResponse) : (s.respond r).errCmd = s.errCmd := rfl
@[simp] theorem State.respond_tempo (r : BusResponse) : (s.respond r).tempo = s.tempo := rfl
@[simp] theorem State.respond_sampleCount (r : BusResponse) : (s.respond r).sampleCount = s.sampleCount := rfl
@[simp] theorem State.respond_lastSample (r : BusResponse) : (s.respond r).lastSample = s.lastSample := rfl
@[simp] theorem State.respond_channels (r : BusResponse) : (s.respond r).channels = s.channels := rfl
@[simp] theorem State.respond_patchRam (r : BusResponse) : (s.respond r).patchRam = s.patchRam := rfl
@[simp] theorem State.respond_pending (r : BusResponse) : (s.respond r).pending = s.pending := rfl
@[simp] theorem State.respond_response (r : BusResponse) : (s.respond r).response = r := rfl

@[simp] theorem State.raiseBusError_dur : s.raiseBusError.dur = s.dur := rfl
@[simp] theorem State.raiseBusError_errCode : s.raiseBusError.errCode = s.errCode := rfl
@[simp] theorem State.raiseBusError_errMore : s.raiseBusError.errMore = s.errMore := rfl
@[simp] theorem State.raiseBusError_errCmd : s.raiseBusError.errCmd = s.errCmd := rfl
@[simp] theorem State.raiseBusError_tempo : s.raiseBusError.tempo = s.tempo := rfl
@[simp] theorem State.raiseBusError_sampleCount : s.raiseBusError.sampleCount = s.sampleCount := rfl
@[simp] theorem State.raiseBusError_lastSample : s.raiseBusError.lastSample = s.lastSample := rfl
@[simp] theorem State.raiseBusError_channels : s.raiseBusError.channels = s.channels := rfl
@[simp] theorem State.raiseBusError_patchRam : s.raiseBusError.patchRam = s.patchRam := rfl
@[simp] theorem State.raiseBusError_pending : s.raiseBusError.pending = s.pending := rfl
@[simp] theorem State.raiseBusError_response : s.raiseBusError.response = .busError := rfl

@[simp] theorem State.clearError_dur : s.clearError.dur = s.dur := rfl
@[simp] theorem State.clearError_errCode : s.clearError.errCode = 0 := rfl
@[simp] theorem State.clearError_errMore : s.clearError.errMore = false := rfl
@[simp] theorem State.clearError_errCmd : s.clearError.errCmd = 0 := rfl
@[simp] theorem State.clearError_tempo : s.clearError.tempo = s.tempo := rfl
@[simp] theorem State.clearError_sampleCount : s.clearError.sampleCount = s.sampleCount := rfl
@[simp] theorem State.clearError_lastSample : s.clearError.lastSample = s.lastSample := rfl
@[simp] theorem State.clearError_channels : s.clearError.channels = s.channels := rfl
@[simp] theorem State.clearError_patchRam : s.clearError.patchRam = s.patchRam := rfl
@[simp] theorem State.clearError_pending : s.clearError.pending = s.pending := rfl
@[simp] theorem State.clearError_response : s.clearError.response = s.response := rfl

@[simp] theorem State.modifyChannel_dur (c : Nat) (f : Channel → Channel) : (s.modifyChannel c f).dur = s.dur := rfl
@[simp] theorem State.modifyChannel_errCode (c : Nat) (f : Channel → Channel) : (s.modifyChannel c f).errCode = s.errCode := rfl
@[simp] theorem State.modifyChannel_errMore (c : Nat) (f : Channel → Channel) : (s.modifyChannel c f).errMore = s.errMore := rfl
@[simp] theorem State.modifyChannel_errCmd (c : Nat) (f : Channel → Channel) : (s.modifyChannel c f).errCmd = s.errCmd := rfl
@[simp] theorem State.modifyChannel_tempo (c : Nat) (f : Channel → Channel) : (s.modifyChannel c f).tempo = s.tempo := rfl
@[simp] theorem State.modifyChannel_sampleCount (c : Nat) (f : Channel → Channel) : (s.modifyChannel c f).sampleCount = s.sampleCount := rfl
@[simp] theorem State.modifyChannel_lastSample (c : Nat) (f : Channel → Channel) : (s.modifyChannel c f).lastSample = s.lastSample := rfl
@[simp] theorem State.modifyChannel_channels (c : Nat) (f : Channel → Channel) : (s.modifyChannel c f).channels = s.channels.modify c f := rfl
@[simp] theorem State.modifyChannel_patchRam (c : Nat) (f : Channel → Channel) : (s.modifyChannel c f).patchRam = s.patchRam := rfl
@[simp] theorem State.modifyChannel_pending (c : Nat) (f : Channel → Channel) : (s.modifyChannel c f).pending = s.pending := rfl
@[simp] theorem State.modifyChannel_response (c : Nat) (f : Channel → Channel) : (s.modifyChannel c f).response = s.response := rfl

@[simp] theorem State.mapChannels_dur (f : Channel → Channel) : (s.mapChannels f).dur = s.dur := rfl
@[simp] theorem State.mapChannels_errCode (f : Channel → Channel) : (s.mapChannels f).errCode = s.errCode := rfl
@[simp] theorem State.mapChannels_errMore (f : Channel → Channel) : (s.mapChannels f).errMore = s.errMore := rfl
@[simp] theorem State.mapChannels_errCmd (f : Channel → Channel) : (s.mapChannels f).errCmd = s.errCmd := rfl
@[simp] theorem State.mapChannels_tempo (f : Channel → Channel) : (s.mapChannels f).tempo = s.tempo := rfl
@[simp] theorem State.mapChannels_sampleCount (f : Channel → Channel) : (s.mapChannels f).sampleCount = s.sampleCount := rfl
@[simp] theorem State.mapChannels_lastSample (f : Channel → Channel) : (s.mapChannels f).lastSample = s.lastSample := rfl
@[simp] theorem State.mapChannels_channels (f : Channel → Channel) : (s.mapChannels f).channels = s.channels.mapFirst f Config.NCH := rfl
@[simp] theorem State.mapChannels_patchRam (f : Channel → Channel) : (s.mapChannels f).patchRam = s.patchRam := rfl
@[simp] theorem State.mapChannels_pending (f : Channel → Channel) : (s.mapChannels f).pending = s.pending := rfl
@[simp] theorem State.mapChannels_response (f : Channel → Channel) : (s.mapChannels f).response = s.response := rfl

@[simp] theorem State.startNote_dur (ch slot : BitVec 4) (key vel : BitVec 7) (d : Word) : (s.startNote ch slot key vel d).dur = s.dur := rfl
@[simp] theorem State.startNote_errCode (ch slot : BitVec 4) (key vel : BitVec 7) (d : Word) : (s.startNote ch slot key vel d).errCode = s.errCode := rfl
@[simp] theorem State.startNote_errMore (ch slot : BitVec 4) (key vel : BitVec 7) (d : Word) : (s.startNote ch slot key vel d).errMore = s.errMore := rfl
@[simp] theorem State.startNote_errCmd (ch slot : BitVec 4) (key vel : BitVec 7) (d : Word) : (s.startNote ch slot key vel d).errCmd = s.errCmd := rfl
@[simp] theorem State.startNote_tempo (ch slot : BitVec 4) (key vel : BitVec 7) (d : Word) : (s.startNote ch slot key vel d).tempo = s.tempo := rfl
@[simp] theorem State.startNote_sampleCount (ch slot : BitVec 4) (key vel : BitVec 7) (d : Word) : (s.startNote ch slot key vel d).sampleCount = s.sampleCount := rfl
@[simp] theorem State.startNote_lastSample (ch slot : BitVec 4) (key vel : BitVec 7) (d : Word) : (s.startNote ch slot key vel d).lastSample = s.lastSample := rfl
@[simp] theorem State.startNote_channels (ch slot : BitVec 4) (key vel : BitVec 7) (d : Word) : (s.startNote ch slot key vel d).channels = s.channels.modify ch.toNat fun c => c.startNote (decodePatch (s.patchByte slot.toNat)) key vel d := rfl
@[simp] theorem State.startNote_patchRam (ch slot : BitVec 4) (key vel : BitVec 7) (d : Word) : (s.startNote ch slot key vel d).patchRam = s.patchRam := rfl
@[simp] theorem State.startNote_pending (ch slot : BitVec 4) (key vel : BitVec 7) (d : Word) : (s.startNote ch slot key vel d).pending = s.pending := rfl
@[simp] theorem State.startNote_response (ch slot : BitVec 4) (key vel : BitVec 7) (d : Word) : (s.startNote ch slot key vel d).response = s.response := rfl

@[simp] theorem State.engineReset_dur : s.engineReset.dur = s.dur := rfl
@[simp] theorem State.engineReset_errCode : s.engineReset.errCode = 0 := rfl
@[simp] theorem State.engineReset_errMore : s.engineReset.errMore = false := rfl
@[simp] theorem State.engineReset_errCmd : s.engineReset.errCmd = 0 := rfl
@[simp] theorem State.engineReset_tempo : s.engineReset.tempo = s.tempo := rfl
@[simp] theorem State.engineReset_sampleCount : s.engineReset.sampleCount = 0 := rfl
@[simp] theorem State.engineReset_lastSample : s.engineReset.lastSample = 128 := rfl
@[simp] theorem State.engineReset_channels : s.engineReset.channels = Bank.fill Config.NCH Channel.reset := rfl
@[simp] theorem State.engineReset_patchRam : s.engineReset.patchRam = s.patchRam := rfl
@[simp] theorem State.engineReset_pending : s.engineReset.pending = s.pending := rfl
@[simp] theorem State.engineReset_response : s.engineReset.response = s.response := rfl

@[simp] theorem State.tick_dur : s.tick.dur = s.dur := rfl
@[simp] theorem State.tick_errCode : s.tick.errCode = s.errCode := rfl
@[simp] theorem State.tick_errMore : s.tick.errMore = s.errMore := rfl
@[simp] theorem State.tick_errCmd : s.tick.errCmd = s.errCmd := rfl
@[simp] theorem State.tick_tempo : s.tick.tempo = s.tempo := rfl
@[simp] theorem State.tick_sampleCount : s.tick.sampleCount = s.sampleCount + 1 := rfl
@[simp] theorem State.tick_lastSample : s.tick.lastSample = s.tickSample := rfl
@[simp] theorem State.tick_channels : s.tick.channels = s.tickVoices.1 := rfl
@[simp] theorem State.tick_patchRam : s.tick.patchRam = s.patchRam := rfl
@[simp] theorem State.tick_pending : s.tick.pending = s.pending := rfl
@[simp] theorem State.tick_response : s.tick.response = s.response := rfl

@[simp] theorem State.hardReset_dur : s.hardReset.dur = State.reset.dur := rfl
@[simp] theorem State.hardReset_errCode : s.hardReset.errCode = State.reset.errCode := rfl
@[simp] theorem State.hardReset_errMore : s.hardReset.errMore = State.reset.errMore := rfl
@[simp] theorem State.hardReset_errCmd : s.hardReset.errCmd = State.reset.errCmd := rfl
@[simp] theorem State.hardReset_tempo : s.hardReset.tempo = State.reset.tempo := rfl
@[simp] theorem State.hardReset_sampleCount : s.hardReset.sampleCount = State.reset.sampleCount := rfl
@[simp] theorem State.hardReset_lastSample : s.hardReset.lastSample = State.reset.lastSample := rfl
@[simp] theorem State.hardReset_channels : s.hardReset.channels = State.reset.channels := rfl
@[simp] theorem State.hardReset_patchRam : s.hardReset.patchRam = s.patchRam := rfl
@[simp] theorem State.hardReset_pending : s.hardReset.pending = s.pending := rfl
@[simp] theorem State.hardReset_response : s.hardReset.response = State.reset.response := rfl

@[simp] theorem State.raiseError_dur (e : ErrCode) (w : Word) : (s.raiseError e w).dur = s.dur := by
  unfold State.raiseError; split <;> rfl
@[simp] theorem State.raiseError_tempo (e : ErrCode) (w : Word) : (s.raiseError e w).tempo = s.tempo := by
  unfold State.raiseError; split <;> rfl
@[simp] theorem State.raiseError_sampleCount (e : ErrCode) (w : Word) : (s.raiseError e w).sampleCount = s.sampleCount := by
  unfold State.raiseError; split <;> rfl
@[simp] theorem State.raiseError_lastSample (e : ErrCode) (w : Word) : (s.raiseError e w).lastSample = s.lastSample := by
  unfold State.raiseError; split <;> rfl
@[simp] theorem State.raiseError_channels (e : ErrCode) (w : Word) : (s.raiseError e w).channels = s.channels := by
  unfold State.raiseError; split <;> rfl
@[simp] theorem State.raiseError_patchRam (e : ErrCode) (w : Word) : (s.raiseError e w).patchRam = s.patchRam := by
  unfold State.raiseError; split <;> rfl
@[simp] theorem State.raiseError_pending (e : ErrCode) (w : Word) : (s.raiseError e w).pending = s.pending := by
  unfold State.raiseError; split <;> rfl
@[simp] theorem State.raiseError_response (e : ErrCode) (w : Word) : (s.raiseError e w).response = s.response := by
  unfold State.raiseError; split <;> rfl

end Sys2Proof.Machine
end

