-- ==== Sys2Proof/Laws/Ops.lean ====
section
/-! SUPPORT. The shared operations of the machine, one lemma each that says everything they can do. -/

namespace Sys2Proof.Machine

/-! ### The address map (20_memory.md R52, R53, R56) -/

theorem regionOf_registers {addr : Addr} (h : addr.toNat < 0x100) : regionOf addr = .registers := by
  simp [regionOf, h]

theorem regionOf_patchRam {addr : Addr} (h : 0x400 ≤ addr.toNat) (h' : addr.toNat < 0x800) :
    regionOf addr = .patchRam := by
  simp only [regionOf, Config.patchBase, Config.NPATCH, Config.slotSize]
  rw [if_neg (by omega), if_pos (by omega)]

theorem regionOf_unmapped {addr : Addr} (h : 0x100 ≤ addr.toNat) (h' : addr.toNat < 0x400 ∨ 0x800 ≤ addr.toNat) :
    regionOf addr = .unmapped := by
  simp only [regionOf, Config.patchBase, Config.NPATCH, Config.slotSize]
  rw [if_neg (by omega), if_neg (by omega)]

/-- A 32-bit access is a BusError exactly where the address is unmapped or not a multiple of 4. -/
theorem busFault32_iff (addr : Addr) : busFault32 addr = true ↔
    (0x100 ≤ addr.toNat ∧ addr.toNat < 0x400) ∨ 0x800 ≤ addr.toNat ∨ addr.toNat % 4 ≠ 0 := by
  by_cases h1 : addr.toNat < 0x100
  · simp [busFault32, regionOf_registers h1, aligned]; omega
  · by_cases h2 : 0x400 ≤ addr.toNat ∧ addr.toNat < 0x800
    · simp [busFault32, regionOf_patchRam h2.1 h2.2, aligned]; omega
    · simp [busFault32, regionOf_unmapped (addr := addr) (by omega) (by omega)]; omega

/-- An 8-bit access is a BusError exactly outside patch RAM. -/
theorem busFault8_iff (addr : Addr) : busFault8 addr = true ↔ addr.toNat < 0x400 ∨ 0x800 ≤ addr.toNat := by
  by_cases h1 : addr.toNat < 0x100
  · simp [busFault8, regionOf_registers h1]; omega
  · by_cases h2 : 0x400 ≤ addr.toNat ∧ addr.toNat < 0x800
    · simp [busFault8, regionOf_patchRam h2.1 h2.2]; omega
    · simp [busFault8, regionOf_unmapped (addr := addr) (by omega) (by omega)]; omega

/-! ### The register map (10_state.md R47) -/

/-- The registers whose read or write has an effect, each at its one address. -/
theorem regAt_effects (a : Addr) : (regAt a = .outData → a = 0x024) ∧ (regAt a = .cmd → a = 0x008) ∧
    (regAt a = .dur → a = 0x00C) ∧ (regAt a = .err → a = 0x014) ∧ (regAt a = .tempo → a = 0x01C) := by
  unfold regAt
  split <;> (try split_ifs) <;> refine ⟨?_, ?_, ?_, ?_, ?_⟩ <;> intro h <;>
    first | (cases h; done) | exact BitVec.eq_of_toNat_eq ‹_›

theorem regAt_chStatus {a : Addr} {n : Nat} (hn : n < 16) (h : a.toNat = 0x040 + 4 * n) :
    regAt a = .chStatus n := by
  unfold regAt
  split <;> first | (rename_i h'; omega) | (split_ifs <;> first | omega | (congr; omega))

theorem regAt_chHeld {a : Addr} {n : Nat} (hn : n < 16) (h : a.toNat = 0x080 + 4 * n) :
    regAt a = .chHeld n := by
  unfold regAt
  split <;> first | (rename_i h'; omega) | (split_ifs <;> first | omega | (congr; omega))

theorem regAt_reserved {a : Addr} (h : 0x02C ≤ a.toNat) (h1 : ¬ (0x040 ≤ a.toNat ∧ a.toNat < 0x080))
    (h2 : ¬ (0x080 ≤ a.toNat ∧ a.toNat < 0x0C0)) : regAt a = .reserved := by
  unfold regAt
  split <;> first | (rename_i h'; rw [h'] at h; exact absurd h (by decide)) | rw [if_neg h1, if_neg h2]

/-- A 32-bit read of a register answers its value and has its read's effect. -/
theorem exec_rd32_register {a : Addr} (h : a.toNat < 0x100) (h4 : a.toNat % 4 = 0) (s : State) :
    exec (.rd32 a) s = .next ((s.afterRead (regAt a)).respond (.data32 (s.readReg (regAt a)))) := by
  have hf : busFault32 a = false := by
    rw [← Bool.not_eq_true, busFault32_iff]; omega
  simp only [exec, execRd32, hf, regionOf_registers h]; rfl

/-- A 32-bit write of a register is the register's own write. -/
theorem exec_wr32_register {a : Addr} (h : a.toNat < 0x100) (h4 : a.toNat % 4 = 0) (d : Word) (s : State) :
    exec (.wr32 a d) s = writeReg (regAt a) d s := by
  have hf : busFault32 a = false := by
    rw [← Bool.not_eq_true, busFault32_iff]; omega
  simp only [exec, execWr32, hf, regionOf_registers h]; rfl

/-! ### Command words (40_commands.md R90) -/

/-- A CMD write is a rejection with the code of its first failing check, or its effect. -/
theorem runCommand_cases (w : Word) (checks : List (Bool × ErrCode)) (effect : State → State) (s : State) :
    (∃ e, firstError checks = some e ∧ runCommand w checks effect s = .next ((s.raiseError e w).respond .done)) ∨
    (firstError checks = none ∧ runCommand w checks effect s = .next ((effect s).respond .done)) := by
  unfold runCommand
  cases h : firstError checks with
  | none => exact .inr ⟨rfl, rfl⟩
  | some e => exact .inl ⟨e, rfl, rfl⟩

theorem firstError_none_iff (checks : List (Bool × ErrCode)) :
    firstError checks = none ↔ ∀ c ∈ checks, c.1 = false := by
  induction checks with
  | nil => simp [firstError]
  | cons c rest ih =>
    obtain ⟨b, e⟩ := c
    cases b <;> simp [firstError, ih]

/-- A rejection in the spec's words (60_exceptions.md R197, R198). -/
theorem rejected_raiseError (s : State) (e : ErrCode) (w : Word) :
    Rejected s ((s.raiseError e w).respond .done) e.code w := by
  unfold Rejected State.raiseError
  split <;> rfl

/-- A command whose first failing check is e is rejected with e's code and the word it was written as. -/
theorem runCommand_rejects {w : Word} {n : Nat} (hw : w.toNat = n) {checks : List (Bool × ErrCode)} {e : ErrCode}
    (hc : firstError checks = some e) (effect : State → State) (s : State) :
    ∃ t, runCommand w checks effect s = .next t ∧ Rejected s t e.code (BitVec.ofNat 32 n) := by
  have hword : BitVec.ofNat 32 n = w := by rw [← hw, BitVec.ofNat_toNat, BitVec.setWidth_eq]
  rw [hword]
  refine ⟨_, rfl, ?_⟩
  simp only [hc]
  exact rejected_raiseError s e w

/-- A command whose checks all pass has its effect. -/
theorem runCommand_runs {checks : List (Bool × ErrCode)} (hc : firstError checks = none) (w : Word)
    (effect : State → State) (s : State) : runCommand w checks effect s = .next ((effect s).respond .done) := by
  simp only [runCommand, hc]

/-! ### Each command as its word, its checks and its effect -/

variable (s : State)

theorem exec_nop (unused : BitVec 28) :
    exec (.nop unused) s = runCommand (opWord 0 unused) [(unused != 0, .rsvd)] id s := rfl

theorem exec_noteOn (ch slot : BitVec 4) (key vel : BitVec 7) (rsv : BitVec 6) :
    exec (.noteOn ch slot key vel rsv) s = runCommand (noteWord 1 ch slot key vel rsv) (s.noteOnChecks ch slot rsv)
      (fun s => s.startNote ch slot key vel s.dur) s := rfl

theorem exec_noteOnT (ch slot : BitVec 4) (key vel : BitVec 7) (rsv : BitVec 6) :
    exec (.noteOnT ch slot key vel rsv) s = runCommand (noteWord 2 ch slot key vel rsv)
      (s.noteOnTChecks ch slot rsv) (fun s => s.startNote ch slot key vel s.timedDuration) s := rfl

theorem exec_noteOff (ch : BitVec 4) (unused : BitVec 24) :
    exec (.noteOff ch unused) s = runCommand (offWord ch unused)
      [(unused != 0, .rsvd), (decide (Config.NCH ≤ ch.toNat), .channel)]
      (fun s => s.modifyChannel ch.toNat Channel.off) s := rfl

theorem exec_allOff (unused : BitVec 28) :
    exec (.allOff unused) s =
      runCommand (opWord 4 unused) [(unused != 0, .rsvd)] (fun s => s.mapChannels Channel.off) s := rfl

theorem exec_clearCount (unused : BitVec 28) :
    exec (.clearCount unused) s =
      runCommand (opWord 5 unused) [(unused != 0, .rsvd)] (fun s => { s with sampleCount := 0 }) s := rfl

theorem exec_engineReset (unused : BitVec 28) :
    exec (.engineReset unused) s = runCommand (opWord 6 unused) [(unused != 0, .rsvd)] State.engineReset s := rfl

theorem exec_reservedOp7 (rest : BitVec 28) :
    exec (.reservedOp7 rest) s = runCommand (opWord 7 rest) [(true, .opcode)] id s := rfl

theorem exec_reservedOp8F (op : BitVec 3) (rest : BitVec 28) :
    exec (.reservedOp8F op rest) s = runCommand (reservedWord op rest) [(true, .opcode)] id s := rfl

/-! ### Voice allocation (40_commands.md R99, R100) -/

theorem Channel.allocated_get? {ch : Channel} {i : Nat} (h : i < ch.alloc.toNat) :
    ch.allocated[i]? = ch.voices.get? i := by
  simp [Channel.allocated, Bank.get?, h]

/-- The voice found is allocated and free, and no voice before it is free. -/
theorem Channel.firstFree_some {ch : Channel} {i : Nat} (h : ch.firstFree = some i) :
    i < ch.alloc.toNat ∧ (∃ v, ch.voices.get? i = some v ∧ v.dur = 0) ∧
    ∀ j u, j < i → ch.voices.get? j = some u → u.dur ≠ 0 := by
  have h' := List.findIdx?_eq_some_iff_getElem.mp h
  obtain ⟨hi, hfree, hbefore⟩ := h'
  have hlen : i < ch.alloc.toNat := by
    have : i < (ch.voices.list.take ch.alloc.toNat).length := hi
    rw [List.length_take] at this; omega
  refine ⟨hlen, ⟨ch.allocated[i], ?_, ?_⟩, fun j u hj hu => ?_⟩
  · rw [← Channel.allocated_get? hlen]; exact List.getElem?_eq_getElem hi
  · simpa [Voice.free] using hfree
  · have hju : ch.allocated[j]? = some u := by rw [Channel.allocated_get? (by omega)]; exact hu
    have := hbefore j hj
    obtain ⟨_, hget⟩ := List.getElem?_eq_some_iff.mp hju
    rw [hget] at this
    simpa [Voice.free] using this

theorem Channel.firstFree_none {ch : Channel} : ch.firstFree = none ↔ ch.NoneFree := by
  unfold Channel.firstFree
  rw [List.findIdx?_eq_none_iff]
  constructor
  · intro h j v hj hv
    have hm : v ∈ ch.allocated := by
      rw [← Channel.allocated_get? hj] at hv; exact List.mem_of_getElem? hv
    simpa [Voice.free] using h v hm
  · intro h v hv
    obtain ⟨j, hj⟩ := List.mem_iff_getElem?.mp hv
    have hlt : j < ch.alloc.toNat := by
      have := (List.getElem?_eq_some_iff.mp hj).1
      rw [Channel.allocated, List.length_take] at this; omega
    rw [Channel.allocated_get? hlt] at hj
    have := h j v hlt hj
    simpa [Voice.free] using this

/-- Starting a note does what the spec's words say, unless the pool is full. -/
theorem Channel.startNote_started {c : Channel} (p : Snap) (key vel : BitVec 7) (d : Word)
    (h : c.allocate.isSome) : c.NoteStarted (c.startNote p key vel d) p key vel d := by
  unfold Channel.startNote
  unfold Channel.allocate at h ⊢
  cases hf : c.firstFree with
  | some i =>
    obtain ⟨hi, ⟨v, hv, hd⟩, hb⟩ := Channel.firstFree_some hf
    refine .inl ⟨i, v, hi, hv, hd, hb, rfl, ?_, fun j hj => ?_⟩
    · simp only [Channel.modifyVoice]
      exact Bank.get?_modify_same _ hv
    · simp only [Channel.modifyVoice]
      exact Bank.get?_modify_other _ hj
  | none =>
    simp only [hf] at h
    split at h
    · rename_i hlt
      simp only [if_pos hlt, Channel.modifyVoice]
      obtain ⟨v, hv⟩ := Bank.get?_some_of_lt c.voices hlt
      refine .inr ⟨Channel.firstFree_none.mp hf, hlt, ?_, ?_, fun j hj => ?_⟩
      · have hlt' : c.alloc.toNat < 8 := hlt
        have h1 : (1 : BitVec 5).toNat = 1 := rfl
        rw [BitVec.toNat_add, h1]; omega
      · exact Bank.get?_modify_same _ (Bank.get?_modify_same _ hv)
      · rw [Bank.get?_modify_other _ hj, Bank.get?_modify_other _ hj]
    · simp at h

/-- alloc(c) finds a voice exactly where one is free or the pool can grow (40_commands.md R99). -/
theorem Channel.allocate_isSome_iff (c : Channel) :
    c.allocate.isSome ↔ ¬ c.NoneFree ∨ c.alloc.toNat < Config.VPC := by
  unfold Channel.allocate
  cases hf : c.firstFree with
  | some i =>
    simp only [Option.isSome_some, true_iff]
    left; intro hn
    rw [Channel.firstFree_none.mpr hn] at hf; cases hf
  | none =>
    have := Channel.firstFree_none.mp hf
    by_cases hlt : c.alloc.toNat < Config.VPC
    · simp only [if_pos hlt, Option.isSome_some, true_iff]; exact .inr hlt
    · simp only [if_neg hlt, Option.isSome_none, Bool.false_eq_true, false_iff]
      rintro (h | h)
      · exact h this
      · exact hlt h

end Sys2Proof.Machine
end

