-- ==== Sys2Proof/Laws/Invariant.lean ====
section
/-! SUPPORT. What each change of a voice and of a channel does to the invariants of Safety.lean. -/

namespace Sys2Proof.Machine

/-- A tick of a voice that is not idle keeps its invariant. -/
theorem Voice.render_countdown_inv {v : Voice} (h : v.Inv) (hl : v.ampPh ≠ .idle) : v.render.1.countdown.Inv := by
  obtain ⟨htail, hidle, hg, hlev, hfb, hlfo, hp⟩ := h
  have hP := hp hl
  have hops : ∀ k, (v.snap.op.get k).InRange := fun k => hP.2.2.2.2.2.2.2.2.2.2.2.2 k (OpIx.mem_all k)
  have hE : ∀ k, (v.advance.opE.get k).toNat ≤ 1048576 := fun k => by
    rw [Voice.advance_opE]; exact opEnvStep_le (hops k).2.2.2.2.2 _ (hlev.2 k (OpIx.mem_all k))
  have hA : (ampEnvStep v.snap v.ampPh v.ampE).2.toNat ≤ 1048576 :=
    ampEnvStep_le hP.2.2.2.2.2.2.2.1 _ hlev.1
  have hph := ampEnvStep_phase v.snap v.ampPh v.ampE
  have hid := ampEnvStep_idle v.snap v.ampPh v.ampE
  have hr := Voice.render_ops v
  have hcd := Voice.countdown_cases v.render.1
  have hrend : v.render.1.Inv := by
    refine ⟨?_, ?_, ?_, ?_, ?_, ?_, ?_⟩
    · intro h; simp only [Voice.render_ampPh, Voice.render_dur] at *
      rcases h with h | h
      · rcases hph.2 h with h' | h'
        · exact htail (.inr h')
        · exact absurd h' hl
      · exact htail (.inr (hph.1 h))
    · intro h; rw [Voice.render_ampE]; rw [Voice.render_ampPh] at h
      exact ⟨hid h, hr.1 (by rw [Voice.render_ampPh]; exact h)⟩
    · simp only [Voice.GlideInRange, Voice.render_gPos, Voice.render_gLen]
      have := hg.1; have := hg.2; simp only [Voice.glideStep]
      split
      · exact ⟨by omega, by omega⟩
      · exact ⟨by rw [BitVec.toNat_ofNat]; omega, by omega⟩
    · refine ⟨by rw [Voice.render_ampE]; exact hA, fun k _ => ?_⟩
      by_cases hi : v.render.1.ampPh = .idle
      · rw [(hr.1 hi).2]; simp
      · rw [(hr.2 hi).2]; exact hE k
    · simp only [Voice.FeedbackInRange, Voice.render_fbPrev]
      obtain ⟨idx, hi⟩ := v.advance.outputs_get (algRow v.snap.alg).fbop
      have hrange := opOut_range idx (Voice.opAmp_le (v := v.advance) (k := (algRow v.snap.alg).fbop) (by rw [Voice.advance_snap]; exact (hops _).1) (hE _))
      rw [hi]
      generalize opOut idx _ = x at hrange
      rw [BitVec.toInt_ofInt, Int.bmod_eq_of_le (by norm_num; omega) (by norm_num; omega)]
      exact hrange
    · simp only [Voice.LfoInRange, Voice.render_lfoAge, Voice.lfoStep, BitVec.toNat_ofNat]; exact Nat.le_trans (Nat.mod_le _ _) (Nat.min_le_right _ _)
    · intro h; rw [Voice.render_snap]; exact hP
  obtain ⟨rtail, ridle, rg, rlev, rfb, rlfo, rp⟩ := hrend
  rcases hcd with ⟨_, h⟩ | ⟨h0, h1, h2, h⟩ | ⟨h1, h⟩
  · rw [h]; exact ⟨rtail, ridle, rg, rlev, rfb, rlfo, rp⟩
  · rw [h]; exact ⟨fun hh => absurd (rtail hh) h0, ridle, rg, rlev, rfb, rlfo, rp⟩
  · rw [h]
    have hne : v.render.1.ampPh ≠ .idle := fun hh => by have := rtail (.inl hh); rw [this] at h1; simp at h1
    refine ⟨fun _ => rfl, fun hh => ?_, rg, rlev, rfb, rlfo, fun _ => rp hne⟩
    exact absurd ((EnvPhase.released_eq_idle _).mp hh) hne

/-- NOTE_OFF and ALL_OFF keep a voice's invariant. -/
theorem Voice.off_inv {v : Voice} (h : v.Inv) : v.off.Inv := by
  obtain ⟨htail, hidle, hg, hlev, hfb, hlfo, hp⟩ := h
  refine ⟨fun _ => rfl, fun hh => ?_, hg, hlev, hfb, hlfo, fun hh => hp fun h' => hh ((EnvPhase.released_eq_idle _).mpr h')⟩
  have hi := (EnvPhase.released_eq_idle _).mp hh
  have := hidle hi
  refine ⟨this.1, ?_, this.2.2⟩
  apply Quad.eq_of_get; intro k
  show v.release.opPh.get k = _
  rw [Voice.release_opPh, this.2.1]; simp [EnvPhase.released]

/-- A note started with a patch in range gives a voice its invariant. -/
theorem Voice.start_inv (v : Voice) {p : Snap} (hp : p.InRange) (key vel : BitVec 7) (d : Word) :
    (v.start p key vel d).Inv := by
  refine ⟨fun h => ?_, fun h => ?_, ?_, ?_, ?_, ?_, fun _ => hp⟩
  · simp [Voice.start, Voice.trigger] at h
  · simp [Voice.start, Voice.trigger] at h
  · refine ⟨by simp [Voice.start, Voice.trigger], ?_⟩
    simp only [Voice.start, Voice.trigger, Config.TIME_UNIT]
    have := hp.2.2.2.2.1
    split
    · rw [BitVec.toNat_ofNat]; exact Nat.le_trans (Nat.mod_le _ _) (by omega)
    · simp
  · refine ⟨by simp [Voice.start, Voice.trigger], fun k _ => by simp [Voice.start, Voice.trigger]⟩
  · simp [Voice.FeedbackInRange, Voice.start, Voice.trigger]
  · simp [Voice.LfoInRange, Voice.start, Voice.trigger]

theorem Voice.reset_inv : Voice.reset.Inv := by decide

/-- A legal slot decodes to a patch in range (30_encoding.md R79). -/
theorem decodePatch_inRange {b : Nat → Byte} (h : patchLegal b = true) : (decodePatch b).InRange := by
  have h0 := h
  simp [patchLegal, OpIx.all, opLegal, opOffset, OpIx.num, Config.NALG] at h
  obtain ⟨⟨⟨h1, h2⟩, h3⟩, h4⟩ := h
  refine ⟨?_, ?_, ?_, ?_, ?_, ?_, ?_, ?_, ?_, ?_, ?_, ?_, fun k _ => ?_⟩
  all_goals first | (simp [decodePatch, Config.NALG]; omega) | skip
  have h5 : opLegal b (opOffset k) = true := by
    have := h0; simp only [patchLegal, Bool.and_eq_true, List.all_eq_true] at this
    exact this.2 k (OpIx.mem_all k)
  have h6 : (decodePatch b).op.get k = decodeOp b (opOffset k) := by cases k <;> rfl
  rw [h6]; generalize opOffset k = o at h5
  simp [opLegal] at h5
  simp [decodeOp, OpParams.InRange]; omega

theorem Voice.ticked_inv {v : Voice} (h : v.Inv) : v.ticked.Inv := by
  unfold Voice.ticked; split
  · exact h
  · rename_i hr; exact Voice.render_countdown_inv h (by simpa [Voice.released] using hr)

theorem drop_mapFirst {α : Type} (f : α → α) (k : Nat) (xs : List α) : (mapFirst f k xs).drop k = xs.drop k := by
  rw [mapFirst_eq, List.drop_append]
  by_cases h : k ≤ xs.length
  · simp [h]
  · simp; omega

theorem take_mapFirst {α : Type} (f : α → α) (k : Nat) (xs : List α) : (mapFirst f k xs).take k = (xs.take k).map f := by
  rw [mapFirst_eq, List.take_append, List.take_of_length_le (by simp)]
  by_cases h : k ≤ xs.length
  · simp [h]
  · simp; right; omega

/-- A change of every allocated voice that keeps the voice invariant keeps the channel's. -/
theorem Channel.mapAllocated_inv {c : Channel} {f : Voice → Voice} (hf : ∀ v, v.Inv → (f v).Inv) (h : c.Inv) :
    (c.mapAllocated f).Inv := by
  refine ⟨h.1, fun v hv => ?_, fun v hv => ?_⟩
  · have : (c.mapAllocated f).allocated = c.allocated.map f := take_mapFirst _ _ _
    rw [this] at hv
    obtain ⟨u, hu, rfl⟩ := List.mem_map.mp hv
    exact hf u (h.2.1 u hu)
  · apply h.2.2 v
    have : (c.mapAllocated f).voices.list.drop c.alloc.toNat = c.voices.list.drop c.alloc.toNat := drop_mapFirst _ _ _
    rw [← this]; exact hv

/-- Starting a note with a patch in range keeps the channel's invariant. -/
theorem Channel.startNote_inv {c : Channel} (h : c.Inv) {p : Snap} (hp : p.InRange) (key vel : BitVec 7) (d : Word) :
    (c.startNote p key vel d).Inv := by
  unfold Channel.startNote Channel.allocate
  cases hf : c.firstFree with
  | some i =>
    obtain ⟨hi, -, -⟩ := Channel.firstFree_some hf
    simp only [Channel.modifyVoice]
    refine ⟨h.1, fun v hv => ?_, fun v hv => ?_⟩
    · simp only [Channel.allocated, Bank.modify] at hv
      obtain ⟨j, hj⟩ := List.mem_iff_getElem?.mp hv
      rw [List.getElem?_take, List.getElem?_modify] at hj
      split at hj
      · split at hj
        · simp only [Option.map_eq_map, Option.map_eq_some_iff] at hj
          obtain ⟨u, _, rfl⟩ := hj; exact Voice.start_inv _ hp _ _ _
        · simp at hj
          exact h.2.1 v (List.mem_iff_getElem?.mpr ⟨j, by simp only [Channel.allocated]; rw [List.getElem?_take]; simp_all⟩)
      · simp at hj
    · apply h.2.2 v
      simp only [Bank.modify] at hv
      rwa [List.drop_modify_of_lt _ _ _ _ hi] at hv
  | none =>
    dsimp only
    split
    · rename_i i ch' heq
      split at heq
      · rename_i hlt
        simp only [Option.some.injEq, Prod.mk.injEq] at heq
        obtain ⟨rfl, rfl⟩ := heq
        have hlt' : c.alloc.toNat < 8 := hlt
        have ha : (c.alloc + 1).toNat = c.alloc.toNat + 1 := by
          have h1 : (1 : BitVec 5).toNat = 1 := rfl
          rw [BitVec.toNat_add, h1]; omega
        refine ⟨by show (c.alloc + 1).toNat ≤ 8; omega, fun v hv => ?_, fun v hv => ?_⟩
        · simp only [Channel.allocated, Channel.modifyVoice, Bank.modify, ha] at hv
          obtain ⟨j, hj⟩ := List.mem_iff_getElem?.mp hv
          rw [List.getElem?_take, List.getElem?_modify, List.getElem?_modify] at hj
          split at hj
          · split at hj
            · simp only [Option.map_eq_map, Option.map_eq_some_iff] at hj
              obtain ⟨u, _, rfl⟩ := hj; exact Voice.start_inv _ hp _ _ _
            · simp at hj
              exact h.2.1 v (List.mem_iff_getElem?.mpr ⟨j, by simp only [Channel.allocated]; rw [List.getElem?_take, if_pos (by omega)]; simp_all⟩)
          · simp at hj
        · simp only [Channel.modifyVoice, Bank.modify, ha] at hv
          rw [List.drop_modify_of_lt _ _ _ _ (by omega), List.drop_modify_of_lt _ _ _ _ (by omega)] at hv
          exact h.2.2 v (List.mem_of_mem_drop (i := 1) (by rwa [List.drop_drop]))
      · simp at heq
    · exact h

end Sys2Proof.Machine
end

