-- ==== Sys2Proof/Laws/Memory.lean ====
section
/-! SUPPORT. Patch RAM: a read after a write, and every write keeps the canonical form. -/

namespace Sys2Proof.Machine

theorem Memory.rising_mono {lo lo' : Nat} {m : Memory} (h : lo ≤ lo') (hr : m.rising lo' = true) :
    m.rising lo = true := by
  cases m with
  | nil => rfl
  | cons c rest =>
    simp only [Memory.rising, Bool.and_eq_true, decide_eq_true_eq] at hr ⊢
    exact ⟨Nat.le_trans h hr.1, hr.2⟩

/-- Below the first listed address every byte is at its power-up value. -/
theorem Memory.read_below {lo a : Nat} {m : Memory} (hr : m.rising lo = true) (h : a < lo) :
    m.read a = Config.powerUpByte a := by
  induction m generalizing lo with
  | nil => rfl
  | cons c rest ih =>
    simp only [Memory.rising, Bool.and_eq_true, decide_eq_true_eq] at hr
    have hne : a ≠ c.1 := by omega
    simp only [Memory.read, if_neg hne]
    exact ih hr.2 (by omega)

theorem Memory.read_write_same {lo : Nat} {m : Memory} (hr : m.rising lo = true) (a : Nat) (x : Byte) :
    (m.write a x).read a = x := by
  induction m generalizing lo with
  | nil => simp only [Memory.write]; split <;> simp_all [Memory.read]
  | cons c rest ih =>
    obtain ⟨b, v⟩ := c
    simp only [Memory.rising, Bool.and_eq_true, decide_eq_true_eq] at hr
    simp only [Memory.write]
    split
    · rename_i hlt
      split
      · rename_i hx
        rw [hx]
        have hrise : Memory.rising b ((b, v) :: rest) = true := by simp [Memory.rising, hr.2]
        exact Memory.read_below hrise hlt
      · simp [Memory.read]
    · split
      · rename_i heq
        split
        · rename_i hx
          rw [hx]; subst heq
          exact Memory.read_below hr.2 (by omega)
        · simp [Memory.read]
      · rename_i hne
        simp only [Memory.read, if_neg hne]
        exact ih hr.2

theorem Memory.read_write_other (m : Memory) {a c : Nat} (x : Byte) (h : c ≠ a) :
    (m.write a x).read c = m.read c := by
  induction m with
  | nil => simp only [Memory.write]; split <;> simp [Memory.read, h]
  | cons cell rest ih =>
    obtain ⟨b, v⟩ := cell
    simp only [Memory.write]
    split
    · split <;> simp [Memory.read, h]
    · split
      · rename_i heq
        subst heq
        split <;> simp [Memory.read, h]
      · simp only [Memory.read, ih]

theorem Memory.rising_write {lo : Nat} {m : Memory} (hr : m.rising lo = true) {a : Nat} (ha : lo ≤ a) (x : Byte) :
    (m.write a x).rising lo = true := by
  induction m generalizing lo with
  | nil => simp only [Memory.write]; split <;> simp [Memory.rising, ha]
  | cons cell rest ih =>
    obtain ⟨b, v⟩ := cell
    simp only [Memory.rising, Bool.and_eq_true, decide_eq_true_eq] at hr
    simp only [Memory.write]
    split
    · rename_i hlt
      split
      · simp [Memory.rising, hr]
      · simp [Memory.rising, ha, hr.2]; omega
    · split
      · rename_i heq
        subst heq
        split
        · exact Memory.rising_mono (by omega) hr.2
        · simp [Memory.rising, hr]
      · simp only [Memory.rising, Bool.and_eq_true, decide_eq_true_eq]
        exact ⟨hr.1, ih hr.2 (by omega)⟩

theorem Memory.mem_write {m : Memory} {a : Nat} {x : Byte} {cell : Host.Cell} (h : cell ∈ m.write a x) :
    cell ∈ m ∨ (cell = (a, x) ∧ x ≠ Config.powerUpByte a) := by
  induction m with
  | nil =>
    simp only [Memory.write] at h
    split at h <;> simp_all
  | cons c rest ih =>
    obtain ⟨b, v⟩ := c
    simp only [Memory.write] at h
    split at h
    · split at h
      · exact .inl h
      · rename_i hx
        rcases List.mem_cons.mp h with h | h
        · exact .inr ⟨h, hx⟩
        · exact .inl h
    · split at h
      · split at h
        · exact .inl (List.mem_cons_of_mem _ h)
        · rename_i hx
          rcases List.mem_cons.mp h with h | h
          · exact .inr ⟨h, hx⟩
          · exact .inl (List.mem_cons_of_mem _ h)
      · rcases List.mem_cons.mp h with h | h
        · exact .inl (by rw [h]; exact List.mem_cons_self)
        · rcases ih h with h | h
          · exact .inl (List.mem_cons_of_mem _ h)
          · exact .inr h

/-- A write of a byte of patch RAM keeps the canonical form. -/
theorem Memory.wf_write {m : Memory} (hm : m.wf = true) {a : Nat} (x : Byte) (hlo : Config.patchBase ≤ a)
    (hhi : a < Config.patchBase + Config.NPATCH * Config.slotSize) : (m.write a x).wf = true := by
  simp only [Memory.wf, Bool.and_eq_true, List.all_eq_true, decide_eq_true_eq, bne_iff_ne] at hm ⊢
  refine ⟨Memory.rising_write hm.1 hlo x, fun cell hc => ?_⟩
  rcases Memory.mem_write hc with h | ⟨rfl, hx⟩
  · exact hm.2 cell h
  · exact ⟨hhi, hx⟩

/-- A write of several bytes keeps the canonical form. -/
theorem Memory.wf_writeBytes {m : Memory} (hm : m.wf = true) {a n : Nat} (v : Nat) (hlo : Config.patchBase ≤ a)
    (hhi : a + n ≤ Config.patchBase + Config.NPATCH * Config.slotSize) : (m.writeBytes a n v).wf = true := by
  induction n generalizing m a v with
  | zero => exact hm
  | succ n ih =>
    exact ih (Memory.wf_write hm _ hlo (by omega)) _ (by omega) (by omega)

theorem Memory.rising_of_wf {m : Memory} (hm : m.wf = true) : m.rising Config.patchBase = true := by
  simp only [Memory.wf, Bool.and_eq_true] at hm; exact hm.1

/-- Outside the bytes written, every byte reads as before. -/
theorem Memory.read_writeBytes_other (m : Memory) {a n c : Nat} (v : Nat) (h : c < a ∨ a + n ≤ c) :
    (m.writeBytes a n v).read c = m.read c := by
  induction n generalizing m a v with
  | zero => rfl
  | succ n ih =>
    simp only [Memory.writeBytes]
    rw [ih _ _ (by omega), Memory.read_write_other _ _ (by omega)]

/-- Byte i of the bytes written is byte i of the value, little-endian. -/
theorem Memory.read_writeBytes {lo : Nat} {m : Memory} (hr : m.rising lo = true) {a n i : Nat} (v : Nat)
    (ha : lo ≤ a) (hi : i < n) : (m.writeBytes a n v).read (a + i) = BitVec.ofNat 8 (v / 256 ^ i) := by
  induction n generalizing m a i v with
  | zero => omega
  | succ n ih =>
    simp only [Memory.writeBytes]
    cases i with
    | zero =>
      rw [Memory.read_writeBytes_other _ _ (by omega)]
      simpa using Memory.read_write_same hr a _
    | succ i =>
      have hr' := Memory.rising_write hr ha (BitVec.ofNat 8 v)
      have := ih hr' (a := a + 1) (v / 256) (by omega) (i := i) (by omega)
      rw [show a + (i + 1) = a + 1 + i from by omega, this, Nat.div_div_eq_div_mul, Nat.pow_succ, Nat.mul_comm 256]

end Sys2Proof.Machine
end

