-- ==== Sys2Proof/Laws/PerInstr.lean ====
section
/-! SUPPORT. Statements made of every instruction, one lemma for each constructor. -/

namespace Sys2Proof.Laws

/-- The fixed bits of an instruction's row in spec/opcode_table.json, as (high bit, low bit, value), where its word is
written to CMD. -/
def commandRow : Instr → Option (List (Nat × Nat × Nat))
  | .nop _ => some [(31, 0, 0)]
  | .noteOn _ _ _ _ _ => some [(3, 0, 1), (31, 26, 0)]
  | .noteOnT _ _ _ _ _ => some [(3, 0, 2), (31, 26, 0)]
  | .noteOff _ _ => some [(3, 0, 3), (31, 8, 0)]
  | .allOff _ => some [(31, 0, 4)]
  | .clearCount _ => some [(31, 0, 5)]
  | .engineReset _ => some [(31, 0, 6)]
  | .reservedOp7 _ => some [(3, 0, 7)]
  | .reservedOp8F _ _ => some [(3, 3, 1)]
  | .tick => none
  | .rd32 _ => none
  | .wr32 _ _ => none
  | .rd8 _ => none
  | .wr8 _ _ => none

/-- The bits `hi` down to `lo` of a word, as a number (00_scope.md R10). -/
def bitsOf (w : Word) (hi lo : Nat) : Nat := w.toNat / 2 ^ lo % 2 ^ (hi + 1 - lo)

/-- The instruction is one the row's fixed bits describe: its unused bits are 0, or its opcode has no unused bits. -/
def inRow : Instr → Bool
  | .reservedOp7 _ => true
  | .reservedOp8F _ _ => true
  | i => i.clean

/-- The access an instruction encodes to has its row's fixed bits; a row that is no command word never encodes to a
write of CMD. -/
def EncodesToItsRow.Statement (i : Instr) : Prop :=
  i.wf = true → inRow i = true →
    match commandRow i with
    | some fixed => ∃ w, encode i = .write32 cmdAddr w ∧ ∀ f ∈ fixed, bitsOf w f.1 f.2.1 = f.2.2
    | none => ∀ w, encode i ≠ .write32 cmdAddr w

namespace EncodesToItsRow

theorem nop (unused : BitVec 28) : Statement (.nop unused) := by
  intro _ h
  have h0 : unused = 0 := by simpa [inRow, Instr.clean] using h
  subst h0
  exact ⟨_, rfl, by decide⟩

theorem noteOn (ch slot : BitVec 4) (key vel : BitVec 7) (rsv : BitVec 6) :
    Statement (.noteOn ch slot key vel rsv) := by
  intro _ h
  have h0 : rsv = 0 := by simpa [inRow, Instr.clean] using h
  subst h0
  refine ⟨_, rfl, ?_⟩
  simp [bitsOf, noteWord_toNat]
  omega

theorem noteOnT (ch slot : BitVec 4) (key vel : BitVec 7) (rsv : BitVec 6) :
    Statement (.noteOnT ch slot key vel rsv) := by
  intro _ h
  have h0 : rsv = 0 := by simpa [inRow, Instr.clean] using h
  subst h0
  refine ⟨_, rfl, ?_⟩
  simp [bitsOf, noteWord_toNat]
  omega

theorem noteOff (ch : BitVec 4) (unused : BitVec 24) : Statement (.noteOff ch unused) := by
  intro _ h
  have h0 : unused = 0 := by simpa [inRow, Instr.clean] using h
  subst h0
  refine ⟨_, rfl, ?_⟩
  simp [bitsOf, offWord_toNat]
  omega

theorem allOff (unused : BitVec 28) : Statement (.allOff unused) := by
  intro _ h
  have h0 : unused = 0 := by simpa [inRow, Instr.clean] using h
  subst h0
  exact ⟨_, rfl, by decide⟩

theorem clearCount (unused : BitVec 28) : Statement (.clearCount unused) := by
  intro _ h
  have h0 : unused = 0 := by simpa [inRow, Instr.clean] using h
  subst h0
  exact ⟨_, rfl, by decide⟩

theorem engineReset (unused : BitVec 28) : Statement (.engineReset unused) := by
  intro _ h
  have h0 : unused = 0 := by simpa [inRow, Instr.clean] using h
  subst h0
  exact ⟨_, rfl, by decide⟩

theorem reservedOp7 (rest : BitVec 28) : Statement (.reservedOp7 rest) := by
  intro _ _
  refine ⟨_, rfl, ?_⟩
  simp [bitsOf, opWord_toNat]

theorem reservedOp8F (op : BitVec 3) (rest : BitVec 28) : Statement (.reservedOp8F op rest) := by
  intro _ _
  refine ⟨_, rfl, ?_⟩
  simp [bitsOf, reservedWord_toNat]
  omega

theorem tick : Statement .tick := by
  intro _ _ w h
  cases h

theorem rd32 (addr : Addr) : Statement (.rd32 addr) := by
  intro _ _ w h
  cases h

theorem wr32 (addr : Addr) (data : Word) : Statement (.wr32 addr data) := by
  intro hwf _ w h
  cases h
  exact absurd hwf (by simp [Instr.wf])

theorem rd8 (addr : Addr) : Statement (.rd8 addr) := by
  intro _ _ w h
  cases h

theorem wr8 (addr : Addr) (data : Byte) : Statement (.wr8 addr data) := by
  intro _ _ w h
  cases h

end EncodesToItsRow

end Sys2Proof.Laws
end

