-- ==== Sys2Proof/Machine/Pull.lean ====
section
/-! DEFINITION. The pull of 48_host_sequencer.md R190 and R192: a chunk of samples, each one the host step, the serving
of the accesses it issues, and a read of OUT_DATA. Host and block run together here; neither is changed by it. -/

namespace Sys2Proof.Machine

/-- The next thing after a next state; a fault or a refusal ends the run. -/
def andThen {σ τ : Type} (o : Host.Outcome σ Fault Refusal) (f : σ → Host.Outcome τ Fault Refusal) :
    Host.Outcome τ Fault Refusal :=
  match o with
  | .next s => f s
  | .fault r => .fault r
  | .refused r => .refused r

/-- `k` steps of the block. -/
def steps : Nat → State → Host.Outcome State Fault Refusal
  | 0, s => .next s
  | k + 1, s => andThen (step s) (steps k)

/-- The block serves every event the host has issued, in order (20_memory.md R62). -/
def State.serveAll (s : State) : Host.Outcome State Fault Refusal := steps s.pending.length s

/-- The byte of a read of OUT_DATA, in bits 7:0 of the answer (10_state.md R30); none where the last access was no
32-bit read. -/
def State.pulledByte (s : State) : Option Byte :=
  match s.response with
  | .data32 d => some (d.setWidth 8)
  | .data8 _ => none
  | .done => none
  | .busError => none
  | .none => none

/-- One sample of the pull: what the host issued before is served, then the host step of R184 and R185 at the sample
index the block has then, then the read of OUT_DATA (R186). -/
def Sequencer.pullSample (q : Sequencer) (s : State) : Host.Outcome (Sequencer × State) Fault Refusal :=
  andThen s.serveAll fun s' =>
    let r := q.pull s'
    andThen (s'.issue r.2).serveAll fun t => .next (r.1, t)

/-- render(n) -> bytes: a chunk of `n` samples, of any length (R190, R192), with the host and the block after it. -/
def Sequencer.render (q : Sequencer) (n : Nat) (s : State) :
    Host.Outcome (Sequencer × State × List Byte) Fault Refusal :=
  match n with
  | 0 => .next (q, s, [])
  | n + 1 =>
    andThen (q.pullSample s) fun x =>
      andThen (x.1.render n x.2) fun y => .next (y.1, y.2.1, x.2.pulledByte.toList ++ y.2.2)

end Sys2Proof.Machine
end

