-- ==== Sys2Proof/Laws/Pull.lean ====
section
/-! SUPPORT. The pull does not depend on how it is split into chunks (48_host_sequencer.md R192). -/

namespace Sys2Proof.Machine

@[simp] theorem andThen_next {σ τ : Type} (x : σ) (f : σ → Host.Outcome τ Fault Refusal) : andThen (.next x) f = f x := rfl

@[simp] theorem andThen_pure {σ : Type} (o : Host.Outcome σ Fault Refusal) : andThen o .next = o := by cases o <;> rfl

theorem andThen_assoc {σ τ υ : Type} (o : Host.Outcome σ Fault Refusal) (f : σ → Host.Outcome τ Fault Refusal)
    (g : τ → Host.Outcome υ Fault Refusal) : andThen (andThen o f) g = andThen o fun x => andThen (f x) g := by
  cases o <;> rfl

/-- A chunk of `m + n` samples is a chunk of `m` and then one of `n`: the same bytes, the same host, the same block. -/
theorem Sequencer.render_add (m n : Nat) (q : Sequencer) (s : State) :
    q.render (m + n) s =
      andThen (q.render m s) fun x => andThen (x.1.render n x.2.1) fun y => .next (y.1, y.2.1, x.2.2 ++ y.2.2) := by
  induction m generalizing q s with
  | zero => simp [Sequencer.render]
  | succ m ih => simp only [Nat.succ_add, Sequencer.render, ih, andThen_assoc, andThen_next, List.append_assoc]

end Sys2Proof.Machine
end

