-- ==== Sys2Proof/Tests/Slice0.lean ====
section
/-! SUPPORT. Tests of the model against values written out from spec/, the smoke test of WellFormed, and a witness for
the hypotheses of every statement of Certificates/Slice0/Obligations.lean. -/

namespace Sys2Proof.Tests

open Sys2Proof Sys2Proof.Machine

/- One theorem after another: each of these waits for the kernel, and a thread for each would take memory. -/
set_option Elab.async false

/-! ### Helpers -/

/-- The outcome is a next state with property `p`. -/
def nextIs (o : Host.Outcome State Fault Refusal) (p : State → Bool) : Bool :=
  match o with
  | .next t => p t
  | .fault _ => false
  | .refused _ => false

/-- Patch RAM that lists these bytes from an address on. -/
def ramFrom (a : Nat) : List Byte → Memory
  | [] => []
  | b :: bs => (a, b) :: ramFrom (a + 1) bs

/-- The operator bytes of patch P1 for a level (95_test_vectors.md L2-V1). -/
def p1Op (level : Byte) : List Byte := [level, 0x01, 0x00, 0x32, 0x00, 0x00, 0x64, 0x00]

/-- Patch P1, the 64 bytes of the words of 95_test_vectors.md L2-V1. -/
def p1 : List Byte :=
  [0x08, 0x64, 0x32, 0x00, 0x00, 0x00, 0x64, 0x00, 0, 0, 0, 0, 0, 0, 0, 0] ++
  p1Op 0x64 ++ p1Op 0 ++ p1Op 0 ++ p1Op 0 ++ [0, 0, 0, 0, 0, 0, 0, 0, 0, 0, 0, 0, 0, 0, 0, 0]

/-- Reset, with P1 in slot 0, a slot 1 of zeros, and DUR set. -/
def base (dur : Word) : State :=
  { State.reset with dur := dur, patchRam := ramFrom 0x400 (p1 ++ List.replicate 64 0) }

/-- The snapshot of P1. -/
def p1Snap : Snap := decodePatch fun off => p1.getD off 0

/-- A voice of key 69 playing P1 at full level, with all phases at `ph`. -/
def sineVoice (ph : BitVec 32) (dur : Word) : Voice :=
  { Voice.reset.trigger p1Snap 69 127 with
    dur := dur, ampPh := .sustain, ampE := 0x100000, opPh := Quad.fill .sustain, opE := Quad.fill 0x100000,
    phase := Quad.fill ph }

/-- A channel whose first voices are these. -/
def channelOf (vs : List Voice) (alloc : BitVec 5) : Channel :=
  { alloc := alloc
    voices := vs.zipIdx.foldl (fun b x => b.modify x.2 fun _ => x.1) Channel.reset.voices }

/-- A state with these voices on channel 0. -/
def withVoices (s : State) (vs : List Voice) : State :=
  s.modifyChannel 0 fun _ => channelOf vs (BitVec.ofNat 5 vs.length)

/-- Channel 0, voice 0. -/
def voice00 (s : State) : Voice := ((s.channel? 0).bind fun c => c.voices.get? 0).getD Voice.reset

/-- Channel 0. -/
def channel0 (s : State) : Channel := (s.channel? 0).getD Channel.reset

/-! ### WellFormed -/

/-- RD32 of OUT_DATA is TICK's access, and WR32 of CMD a command's. -/
theorem test_wf_refuses : (Instr.rd32 0x024).wf = false ∧ (Instr.wr32 0x008 0x04).wf = false := by decide

/-- Their neighbours are well formed. -/
theorem test_wf_accepts : (Instr.rd32 0x028).wf = true ∧ (Instr.wr32 0x00C 4).wf = true ∧ (Instr.rd8 0x024).wf = true ∧
    (Instr.nop 1).wf = true := by decide

/-! ### Decode: every constructor, from bits written out from 30_encoding.md R71 (RSV, VEL, KEY, SLOT, CH, OP) -/

theorem test_decode_nop : decodeAccess (.write32 0x008#12 0b00000000000000000000000000000000#32) = .nop 0 := by decide

/-- L2-A: NOTE_ON 0, 1, 60, 100. -/
theorem test_decode_noteOn :
    decodeAccess (.write32 0x008#12 0b00000011001000111100000100000001#32) = .noteOn 0 1 60 100 0 := by decide

/-- L2-A: NOTE_ON_T 0, 0, 69, 127. -/
theorem test_decode_noteOnT :
    decodeAccess (.write32 0x008#12 0b00000011111111000101000000000010#32) = .noteOnT 0 0 69 127 0 := by decide

theorem test_decode_noteOff :
    decodeAccess (.write32 0x008#12 0b00000000000000000000000001110011#32) = .noteOff 7 0 := by decide

/-- L2-B: ALL_OFF with CH = 1. -/
theorem test_decode_allOff :
    decodeAccess (.write32 0x008#12 0b00000000000000000000000000010100#32) = .allOff 1 := by decide

theorem test_decode_clearCount :
    decodeAccess (.write32 0x008#12 0b00000000000000000000000000000101#32) = .clearCount 0 := by decide

theorem test_decode_engineReset :
    decodeAccess (.write32 0x008#12 0b00000000000000000000000000000110#32) = .engineReset 0 := by decide

theorem test_decode_reservedOp7 :
    decodeAccess (.write32 0x008#12 0b10000000000000000000000000000111#32) = .reservedOp7 0x8000000 := by decide

theorem test_decode_reservedOp8F :
    decodeAccess (.write32 0x008#12 0b00000000000000000000000000011111#32) = .reservedOp8F 7 1 ∧
    decodeAccess (.write32 0x008#12 0b00000000000000000000000000001000#32) = .reservedOp8F 0 0 := by decide

theorem test_decode_bus :
    decodeAccess (.read32 0b000000100100#12) = .tick ∧ decodeAccess (.read32 0b000000100000#12) = .rd32 0x020 ∧
    decodeAccess (.write32 0b000000100100#12 9) = .wr32 0x024 9 ∧ decodeAccess (.read8 0b000000001000#12) = .rd8 0x008 ∧
    decodeAccess (.write8 0b000000001000#12 4) = .wr8 0x008 4 := by decide

/-- Words as the opcode table numbers them, and the words that stand for no access (log 12). -/
theorem test_decodeTableWord :
    decodeTableWord 32 0x00000083 = some (.noteOff 8 0) ∧ decodeTableWord 16 0x024 = some .tick ∧
    decodeTableWord 16 0x7FF = some (.rd8 0x7FF) ∧ decodeTableWord 0 0 = some (.rd32 0) ∧
    decodeTableWord 32 (2 ^ 32) = none ∧ decodeTableWord 16 0x1000 = none ∧ decodeTableWord 24 0 = none := by decide

/-! ### One step on a small state, per instruction -/

/-- 40_commands.md R91, L2-B: NOP with KEY = 1 is E_RSVD, with the word recorded. -/
theorem test_nop_reserved_field :
    nextIs (exec (decodeCommand 0x00001000) State.reset) (fun t => t.errCode == 2 && t.errCmd == 0x00001000) = true := by
  decide +kernel

/-- R92's example: ALLOC[0] = 1, CH_STATUS[0] = 0x00010001, CH_HELD[0] = 1, STATUS = 0. -/
theorem test_noteOn_first :
    nextIs (exec (decodeCommand 0x03FC5001) (base 10)) (fun t =>
      (channel0 t).alloc == 1 && (channel0 t).statusWord == 0x00010001 && (channel0 t).heldWord == 1 &&
      t.statusWord == 0 && (voice00 t).dur == 10 && (voice00 t).base == 236223201) = true := by decide +kernel

/-- L3-2: the lowest voice with DUR 0 is taken again, though it sounds, and no voice is added. -/
theorem test_noteOn_reuses_lowest_free :
    nextIs (exec (decodeCommand 0x03FC5001) (withVoices (base 3) [sineVoice 7 0, sineVoice 7 0])) (fun t =>
      (channel0 t).alloc == 2 && (channel0 t).heldWord == 1 && (voice00 t).phase == Quad.fill 0) = true := by
  decide +kernel

/-- R93's example: DUR = 31 at 120 bpm is 4000 samples. -/
theorem test_noteOnT_duration :
    nextIs (exec (decodeCommand 0x0323C002) (base 31)) (fun t => (voice00 t).dur == 4000 && t.errCode == 0) = true := by
  decide +kernel

/-- L2-B: at TEMPO = 0, DUR = 5 is E_TEMPO, and the indefinite DUR is converted by nothing; at 16000 bpm, DUR = 0 is
E_DURATION. -/
theorem test_noteOnT_errors :
    nextIs (exec (decodeCommand 0x0323C002) { base 5 with tempo := 0 }) (fun t => t.errCode == 5) = true ∧
    nextIs (exec (decodeCommand 0x0323C002) { base 0xFFFFFFFF with tempo := 0 })
      (fun t => t.errCode == 0 && (voice00 t).dur == 0xFFFFFFFF) = true ∧
    nextIs (exec (decodeCommand 0x0323C002) { base 0 with tempo := 16000 }) (fun t => t.errCode == 6) = true := by
  decide +kernel

/-- R94's example: CH_HELD[0] = 0 and STATUS.AT_END = 1, while CH_STATUS[0] stays. -/
theorem test_noteOff_releases :
    nextIs (exec (.noteOff 0 0) (withVoices State.reset [sineVoice 0 10])) (fun t =>
      (channel0 t).heldWord == 0 && t.statusWord == 1 && (channel0 t).statusWord == 0x00010001 &&
      (voice00 t).ampPh == .release && (voice00 t).ampE == 0x100000) = true := by decide +kernel

/-- L2-B: NOTE_OFF 8 is E_CHANNEL. -/
theorem test_noteOff_channel :
    nextIs (exec (decodeCommand 0x00000083) State.reset) (fun t => t.errCode == 3 && t.errCmd == 0x00000083) = true := by
  decide +kernel

/-- R95's example, on channels 0 and 5. -/
theorem test_allOff :
    nextIs (exec (.allOff 0) ((withVoices State.reset [sineVoice 0 10]).modifyChannel 5 fun _ =>
      channelOf [sineVoice 0 10] 1)) (fun t =>
        t.statusWord == 1 && (channel0 t).heldWord == 0 &&
        ((t.channel? 5).map Channel.heldWord) == some 0) = true := by decide +kernel

/-- R96's example. -/
theorem test_clearCount :
    nextIs (exec (.clearCount 0) { State.reset with sampleCount := 4711 }) (fun t => t.sampleCount == 0) = true := by
  decide +kernel

/-- R97: everything but DUR and TEMPO returns to reset. -/
theorem test_engineReset :
    nextIs (exec (.engineReset 0) { withVoices State.reset [sineVoice 0 10] with
      dur := 9, tempo := 77, errCode := 3, errMore := true, errCmd := 5, sampleCount := 6, lastSample := 7 })
      (fun t => t == { State.reset with dur := 9, tempo := 77, response := .done }) = true := by decide +kernel

/-- L2-B: OP 0xF is E_OPCODE. -/
theorem test_reservedOp8F :
    nextIs (exec (decodeCommand 0x0000000F) State.reset) (fun t => t.errWord == 0x1 && t.errCmd == 0x0000000F) = true := by
  decide +kernel

/-- L2-B: with an error recorded, OP 0x7 sets only MORE. -/
theorem test_reservedOp7_more :
    nextIs (exec (decodeCommand 0x00000007) { State.reset with errCode := 3, errCmd := 0x0323C1F1 }) (fun t =>
      t.errWord == 0x103 && t.errCmd == 0x0323C1F1) = true := by decide +kernel

/-- L2-V1, render 2, and R161: the sample 171, the phase after it, and the release at the end of the countdown. -/
theorem test_tick_sine :
    nextIs (exec .tick (withVoices State.reset [sineVoice 236223201 1])) (fun t =>
      t.response == .data32 171 && t.lastSample == 171 && t.sampleCount == 1 && (voice00 t).phase.op1 == 472446402 &&
      (voice00 t).dur == 0 && (voice00 t).ampPh == .release) = true := by decide +kernel

/-- L2-K, L2-D, L2-G, L2-I: two voices at 128 mix to 129; and one value of each helper. -/
theorem test_tick_arithmetic :
    nextIs (exec .tick (withVoices State.reset [sineVoice 0 9, sineVoice 0 9])) (fun t => t.lastSample == 129) = true ∧
    mix 100 100 = 73 ∧ mix (mix 255 255) 0 = 128 ∧ sin 767 = -4095 ∧
    opInc ⟨0, false, 2, 50, 60, 0, 0, 0, false⟩ 236223201 0 = 591999793 ∧
    opInc ⟨0, true, 15, 99, 0, 0, 0, 0, false⟩ 0 0 = 648711860 ∧ lfoInc 236223201 (-104832000) = 224691681 ∧
    outMap (-1) = 127 ∧ outMap 16380 = 255 ∧ phaseIndex 0 (-1) = 1023 := by decide +kernel

/-- L2-L: little-endian patch RAM, and a misaligned register read. -/
theorem test_rd32 :
    nextIs (exec (.rd32 0x440) { State.reset with patchRam := ramFrom 0x440 [0x11, 0x22, 0x33, 0x44] })
      (fun t => t.response == .data32 0x44332211) = true ∧
    nextIs (exec (.rd32 0x002) State.reset) (fun t => t == { State.reset with response := .busError }) = true := by
  decide +kernel

/-- L2-L: TEMPO keeps bits 15:0; a read-only register ignores a write. -/
theorem test_wr32 :
    nextIs (exec (.wr32 0x01C 0x12345678) State.reset) (fun t => t.tempo == 0x5678) = true ∧
    nextIs (exec (.wr32 0x000 5) State.reset) (fun t => t == { State.reset with response := .done }) = true := by
  decide +kernel

/-- 20_memory.md R56: a byte at an odd address; L2-L: an 8-bit read of OUT_DATA is a BusError and no tick. -/
theorem test_rd8 :
    nextIs (exec (.rd8 0x441) { State.reset with patchRam := ramFrom 0x440 [0x11, 0x22, 0x33, 0x44] })
      (fun t => t.response == .data8 0x22) = true ∧
    nextIs (exec (.rd8 0x024) State.reset) (fun t => t == { State.reset with response := .busError }) = true := by
  decide +kernel

/-- L2-L: WR8 0x00C, 1 is a BusError. -/
theorem test_wr8_register :
    nextIs (exec (.wr8 0x00C 1) State.reset) (fun t => t == { State.reset with response := .busError }) = true := by
  decide +kernel

/-- withFetchWord issues the access that the next step serves, from reset: CLEAR_COUNT, and TICK. -/
theorem test_withFetchWord :
    nextIs (step (State.reset.withFetchWord 32 5)) (fun t => t.response == .done && t.pending.isEmpty) = true ∧
    nextIs (step (State.reset.withFetchWord 16 0x024)) (fun t => t.response == .data32 128 && t.sampleCount == 1) = true := by
  decide +kernel

/-- L1-6: at 120 bpm the section at offset 128 is swapped at n = 15999, and its note at offset 32 starts at 19999. -/
theorem test_sequencer_times : swapSample 120 128 = 15999 ∧ noteStart 120 15999 32 = 19999 := by decide +kernel

/-- L3-4: a note that starts at sample 119 is first heard in the read at 119 (128), and at 120 reads 171. -/
theorem test_render :
    let q : Sequencer :=
      { queue := (Bank.fill _ []).modify 0 fun _ => [⟨0, 69, 127, 0⟩], anchor := Bank.fill _ 119
        patchSlot := Bank.fill _ 0, cursor := Bank.fill _ 0, song := none }
    (match q.render 2 { base 0 with sampleCount := 119, tempo := 4000 } with
      | .next x => x.2.2 == [128, 171] && x.2.1.sampleCount == 121 && x.1.queue.list.all List.isEmpty
      | .fault _ => false
      | .refused _ => false) = true := by decide +kernel

/-! ### Witnesses: for each statement with hypotheses, a concrete case that meets them -/

theorem witness_EncodeThenDecode : (Instr.wr32 0xFFC 0xFFFFFFFF).wf = true := by decide

theorem witness_StepRunsTheDecodedAccess :
    (State.reset.withFetchWord 32 4).pending = .access (.write32 0x008 4) :: [] ∧ 0xFFFFFFFF < 2 ^ 32 := by
  decide +kernel

theorem witness_ResetRegisterValues : ∀ a ∈ [0x02C, 0x040, 0x07C, 0x0BC, 0x0FC], a % 4 = 0 ∧ 0x02C ≤ a ∧ a < 0x100 := by
  decide

theorem witness_EveryAccessIsServed :
    (State.reset.issue [.read8 0xFFF, .read32 0x024]).pending = .access (.read8 0xFFF) :: [.access (.read32 0x024)] := by
  decide +kernel

theorem witness_ResetInputResets :
    ({ base 5 with pending := [.reset, .access (.read32 0)] } : State).pending = .reset :: [.access (.read32 0)] := by
  decide +kernel

theorem witness_BusErrorsChangeNothing :
    (∀ a ∈ [0x100, 0x3FF, 0x800, 0xFFF, 0x001, 0x0FF, 0x402],
      (0x100 ≤ a ∧ a < 0x400) ∨ 0x800 ≤ a ∨ a % 4 ≠ 0) ∧
    (∀ a ∈ [0x000, 0x3FF, 0x800, 0xFFF], a < 0x400 ∨ 0x800 ≤ a) := by decide

theorem witness_PatchRamAccess :
    State.reset.patchRam.wf = true ∧ (∀ a ∈ [0x400, 0x7FC], 0x400 ≤ a ∧ a < 0x800 ∧ a % 4 = 0) ∧
    (∀ a ∈ [0x401, 0x7FF], 0x400 ≤ a ∧ a < 0x800 ∧ a % 4 ≠ 0) := by decide

theorem witness_ReservedWordsReadZeroAndIgnoreWrites :
    ∀ a ∈ [0x02C, 0x03C, 0x060, 0x07C, 0x0A0, 0x0BC, 0x0C0, 0x0FC], a % 4 = 0 ∧
      ((0x02C ≤ a ∧ a < 0x040) ∨ (0x060 ≤ a ∧ a < 0x080) ∨ (0x0A0 ≤ a ∧ a < 0x100)) := by decide

theorem witness_ReadOnlyRegistersIgnoreWrites :
    0x028 ∈ [0x000, 0x004, 0x010, 0x018, 0x020, 0x024, 0x028] ∧
    ∀ a ∈ [0x040, 0x07C, 0x080, 0x0BC], a % 4 = 0 ∧ 0x040 ≤ a ∧ a < 0x0C0 := by decide

theorem witness_ChannelRegisterBits :
    (∀ n ∈ [0, 7, 8, 15], n < 16 ∧ (BitVec.ofNat 12 (0x040 + 4 * n)).toNat = 0x040 + 4 * n ∧
      (BitVec.ofNat 12 (0x080 + 4 * n)).toNat = 0x080 + 4 * n) ∧
    State.reset.channels.get? 7 = some Channel.reset ∧ 8 ≤ 15 := by decide +kernel

theorem witness_OnlyOutDataReadsChangeState : (0x020 : Addr) ≠ 0x024 ∧ (0x028 : Addr) ≠ 0x024 := by decide

theorem witness_reserved_fields : (1 : BitVec 28) ≠ 0 ∧ (0x800000 : BitVec 24) ≠ 0 ∧ (0x20 : BitVec 6) ≠ 0 := by decide

/-- A pool of eight held voices. -/
def fullPool : State := withVoices (base 5) (List.replicate 8 (sineVoice 0 9))

/-- The bytes of a slot. -/
def slotOf (s : State) (slot : Nat) : Nat → Byte := fun off => s.patchRam.read (0x400 + 64 * slot + off)

theorem witness_NoteOnRule :
    (1 : BitVec 6) ≠ 0 ∧ 8 ≤ (8 : BitVec 4).toNat ∧ (base 0).dur = 0 ∧ (base 5).dur ≠ 0 ∧ (7 : BitVec 4).toNat < 8 ∧
    patchLegal (slotOf (base 5) 1) = false ∧ patchLegal (slotOf (base 5) 0) = true ∧
    (base 5).channels.get? 7 = some Channel.reset ∧ Channel.reset.alloc.toNat < 8 := by decide +kernel

theorem witness_NoteOnRule_full_pool :
    fullPool.channels.get? 0 = some (channel0 fullPool) ∧ (channel0 fullPool).NoneFree ∧
    fullPool.dur ≠ 0 ∧ 8 ≤ (channel0 fullPool).alloc.toNat ∧ patchLegal (slotOf fullPool 0) = true :=
  ⟨by decide +kernel, Channel.firstFree_none.mp (by decide +kernel), by decide +kernel⟩

/-- The samples of NOTE_ON_T in a state. -/
def samples (s : State) : Nat := min (480000 / s.tempo.toNat * (s.dur.toNat + 1) / 32) 0xFFFFFFFE

theorem witness_NoteOnTRule :
    ((base 5).dur ≠ 0xFFFFFFFF ∧ (base 5).tempo ≠ 0 ∧ samples (base 5) ≠ 0) ∧
    (({ base 5 with tempo := 0 } : State).dur ≠ 0xFFFFFFFF ∧ ({ base 5 with tempo := 0 } : State).tempo = 0) ∧
    (({ base 0 with tempo := 15001 } : State).tempo ≠ 0 ∧ samples { base 0 with tempo := 15001 } = 0) ∧
    (base 0xFFFFFFFF).dur = 0xFFFFFFFF := by decide +kernel

theorem witness_NoteOffRule :
    (1 : BitVec 24) ≠ 0 ∧ 8 ≤ (8 : BitVec 4).toNat ∧ State.reset.channels.get? (7 : BitVec 4).toNat = some Channel.reset := by
  decide +kernel

theorem witness_frames :
    (∃ t, exec (.nop 0) State.reset = .next t) ∧ (∃ t, exec .tick State.reset = .next t) ∧
    (∃ t, exec (.wr32 0x00C 3) State.reset = .next t) := ⟨⟨_, rfl⟩, ⟨_, rfl⟩, ⟨_, rfl⟩⟩

/-- The growth clause: NOTE_ON on an empty pool. -/
theorem witness_PoolsOnlyGrow :
    (Instr.noteOn 0 0 69 127 0).wf = true ∧ (channel0 (base 5)).alloc = 0 ∧
    nextIs (exec (.noteOn 0 0 69 127 0) (base 5)) (fun t => (channel0 t).alloc == 1) = true := by decide +kernel

theorem witness_FirstErrorIsKept :
    ({ State.reset with errCode := 8 } : State).errCode ≠ 0 ∧
    ∃ t, exec (.reservedOp7 0) { State.reset with errCode := 8 } = .next t := ⟨by decide, _, rfl⟩

theorem witness_MixSaturates : (254 : Byte).toNat ≤ 254 := by decide

theorem witness_NoteIsHeldForItsDuration :
    (Voice.reset.trigger p1Snap 69 127).ampPh = .attack ∧ (1 : Word).toNat = 1 ∧
    (0xFFFFFFFE : Word).toNat = 0xFFFFFFFE ∧ 1 ≤ 0xFFFFFFFE ∧
    (Voice.reset.start p1Snap 69 127 0xFFFFFFFF).ampPh = .attack ∧
    (Voice.reset.start p1Snap 69 127 0xFFFFFFFF).dur = 0xFFFFFFFF ∧
    Voice.reset.dur = 0 ∧ (sineVoice 0 1).dur = 1 ∧
    (sineVoice 0 2).dur = 2 ∧ (2 : Word) ≠ 0 ∧ (2 : Word) ≠ 1 ∧ (2 : Word) ≠ 0xFFFFFFFF :=
  ⟨rfl, rfl, rfl, by omega, rfl, rfl, rfl, rfl, rfl, by decide, by decide, by decide⟩

theorem witness_ReleaseTailLength :
    let v := { (sineVoice 0 0).release with ampE := 1 }
    v.ampPh = .release ∧ v.dur = 0 ∧ v.ampE ≠ 0 ∧ v.snap.envR = 0 := by decide +kernel

theorem witness_TriggerRule :
    ((sineVoice 0 0).ampPh ≠ .idle ∧ ({ p1Snap with glide := 1 } : Snap).glide ≠ 0) ∧
    ¬ (Voice.reset.ampPh ≠ .idle ∧ p1Snap.glide ≠ 0) := by decide +kernel

/-- 95_test_vectors.md L2-E, and its reverse. -/
theorem witness_GlideRule :
    let up := { Voice.reset with gFrom := 140459156, gTo := 280918312, gLen := 80 }
    let down := { Voice.reset with gFrom := 280918312, gTo := 140459156, gLen := 80 }
    up.gPos = 0 ∧ up.gPos.toNat < up.gLen.toNat ∧ up.gFrom.toNat ≤ up.gTo.toNat ∧
    down.gPos = 0 ∧ ¬ down.gFrom.toNat ≤ down.gTo.toNat ∧
    Voice.reset.gLen.toNat ≤ Voice.reset.gPos.toNat := by decide +kernel

theorem witness_LfoRanges :
    let v := { Voice.reset with snap := { Snap.zero with lfoPmd := 100, lfoSpeed := 50, lfoAttack := 1 } }
    v.snap.lfoPmd.toNat ≤ 100 ∧ v.snap.lfoAttack ≠ 0 ∧ v.lfoAge = 0 ∧
    ({ v with lfoAge := 80 } : Voice).snap.lfoAttack.toNat * 80 ≤ ({ v with lfoAge := 80 } : Voice).lfoAge.toNat ∧
    ({ v with lfoAge := 8000 } : Voice).lfoAge.toNat ≤ 8000 ∧ Snap.zero.lfoSpeed = 0 := by decide +kernel

theorem witness_OperatorIncrement :
    (-104832000 : Int) ≤ -104832000 ∧ (104832000 : Int) ≤ 104832000 ∧
    ({ OpParams.zero with detune := 50 } : OpParams).fixed = false ∧
    ({ OpParams.zero with detune := 50 } : OpParams).detune = 50 ∧ OpParams.zero.coarse = 0 ∧ OpParams.zero.fine = 0 := by
  decide

theorem witness_FeedbackTermRange :
    let v := { Voice.reset with fbPrev := BitVec.ofInt 13 (-4095), snap := { Snap.zero with feedback := 50 } }
    v.FeedbackInRange ∧ v.snap.feedback.toNat ≤ 100 ∧ v.snap.feedback = 50 := by decide +kernel

theorem witness_OperatorOutputRange :
    ((sineVoice 0 0).snap.op.get .op1).level.toNat ≤ 100 ∧ ((sineVoice 0 0).opE.get .op1).toNat ≤ 1048576 := by
  decide +kernel

theorem witness_SilentVoiceOutputs128 :
    ({ sineVoice 0 9 with vel := 0 } : Voice).vel = 0 ∧ Voice.reset.snap.volume = 0 ∧
    (sineVoice 0 9).snap.volume.toNat = 100 ∧ (sineVoice 0 9).snap.InRange ∧ (sineVoice 0 9).LevelsInRange := by
  decide +kernel

theorem witness_GoingIdleClearsOperators : (sineVoice 0 0).release.render.1.ampPh = .idle := by decide +kernel

theorem witness_RenderFrame :
    (sineVoice 0 0).render.1.ampPh ≠ .idle ∧ (sineVoice 0 0).release.render.1.ampPh = .idle := by decide +kernel

theorem witness_PatchDecode : patchLegal (fun off => p1.getD off 0) = true := by decide +kernel

theorem witness_TempoConversion : (1 : BitVec 16) ≠ 0 ∧ (65535 : BitVec 16) ≠ 0 := by decide

theorem witness_tables : 255 < 256 ∧ 511 < 512 ∧ 254 < 255 ∧ 127 < 128 ∧ 1 ≤ 11 := by decide

/-- A state that meets the invariant and steps; and a sounding voice that meets its own. -/
theorem witness_StepKeepsTheInvariant :
    (sineVoice 5 9).Inv ∧ ({ State.reset with dur := 7 } : State).Inv ∧ ∃ t, step { State.reset with dur := 7 } = .next t :=
  ⟨by decide +kernel, ⟨fun c hc => by rw [Bank.mem_fill hc]; decide +kernel, by decide, rfl⟩, _, rfl⟩

end Sys2Proof.Tests
end

section
/-! The host registers whose value or effect is computed (10_state.md R23, R25, R30, R32, R33). -/

namespace Sys2Proof.Machine

/-! ### Voices and their flags -/

@[simp] theorem Voice.released_iff (v : Voice) : v.released = true ↔ v.ampPh = .idle := by simp [Voice.released]

@[simp] theorem Voice.free_iff (v : Voice) : v.free = true ↔ v.dur = 0 := by simp [Voice.free]

theorem Channel.mem_allocated_iff {c : Channel} {v : Voice} :
    v ∈ c.allocated ↔ ∃ i, i < c.alloc.toNat ∧ c.voices.get? i = some v := by
  simp [List.mem_iff_getElem?, Channel.allocated_getElem?]

/-- A statement about every allocated voice, by channel and voice number. -/
theorem State.forall_allocated_iff (s : State) (P : Voice → Prop) :
    (∀ c ∈ s.channels.list, ∀ v ∈ c.allocated, P v) ↔
    ∀ n c i v, s.channels.get? n = some c → i < c.alloc.toNat → c.voices.get? i = some v → P v := by
  constructor
  · intro h n c i v hc hi hv
    exact h c (Bank.get?_mem hc) v (Channel.mem_allocated_iff.mpr ⟨i, hi, hv⟩)
  · intro h c hc v hv
    obtain ⟨n, hn⟩ := List.mem_iff_getElem?.mp hc
    obtain ⟨i, hi, hvi⟩ := Channel.mem_allocated_iff.mp hv
    exact h n c i v hn hi hvi

theorem State.atEnd_iff (s : State) : s.atEnd = true ↔
    ∀ c ∈ s.channels.list, ∀ v ∈ c.allocated, v.ampPh = .idle ∨ v.dur = 0 := by
  simp [State.atEnd]

theorem State.allIdle_iff (s : State) : s.allIdle = true ↔
    ∀ c ∈ s.channels.list, ∀ v ∈ c.allocated, v.ampPh = .idle := by
  simp [State.allIdle]

theorem State.atEnd_of_allIdle {s : State} (h : s.allIdle = true) : s.atEnd = true :=
  s.atEnd_iff.mpr fun c hc v hv => .inl (s.allIdle_iff.mp h c hc v hv)

/-- A flag computed for the allocated voices is 1 at `i` exactly where voice `i` is allocated and has it. -/
theorem Channel.allocatedFlag_iff (c : Channel) (i : Nat) (p : Voice → Bool) :
    ((c.allocated[i]?).map p).getD false = true ↔
    i < c.alloc.toNat ∧ ∃ v, c.voices.get? i = some v ∧ p v = true := by
  rw [Channel.allocated_getElem?]
  by_cases hi : i < c.alloc.toNat
  · cases hv : c.voices.get? i <;> simp [hi]
  · simp [hi]

/-! ### The bits of STATUS, CH_STATUS and CH_HELD -/

theorem State.statusWord_getLsbD (s : State) (j : Nat) :
    s.statusWord.getLsbD j = ([s.atEnd, s.allIdle][j]?).getD false := by
  rw [State.statusWord, BitVec.getLsbD_ofNat, testBit_bitsToNat]
  by_cases hj : j < 32
  · simp [hj]
  · rw [List.getElem?_eq_none (by simp; omega)]; simp

theorem Channel.statusWord_live_iff (c : Channel) (i : Nat) : c.statusWord.getLsbD (16 + i) = true ↔
    i < c.alloc.toNat ∧ ∃ v, c.voices.get? i = some v ∧ v.ampPh ≠ .idle := by
  rw [Channel.statusWord_getLsbD, if_neg (by omega), if_neg (by omega), Nat.add_sub_cancel_left,
    Channel.allocatedFlag_iff]
  simp only [Bool.not_eq_true', ← Bool.not_eq_true, Voice.released_iff, ne_eq]

theorem Channel.heldWord_held_iff (c : Channel) (i : Nat) : c.heldWord.getLsbD i = true ↔
    i < c.alloc.toNat ∧ ∃ v, c.voices.get? i = some v ∧ v.dur ≠ 0 := by
  rw [Channel.heldWord_getLsbD, Channel.allocatedFlag_iff]
  simp only [Bool.not_eq_true', ← Bool.not_eq_true, Voice.free_iff, ne_eq]

theorem Channel.heldWord_getLsbD_high (c : Channel) {j : Nat} (hj : 16 ≤ j) : c.heldWord.getLsbD j = false := by
  have hlen := c.allocated_length_le
  rw [Channel.heldWord_getLsbD, List.getElem?_eq_none (by omega)]; rfl

/-! ### Reads and writes of these registers -/

theorem exec_rd32_chStatus {a : Addr} {n : Nat} (hn : n < 16) (ha : a.toNat = 0x040 + 4 * n) (s : State) :
    exec (.rd32 a) s =
    .next { s with response := .data32 (((s.channels.get? n).map Channel.statusWord).getD 0) } := by
  rw [exec_rd32_register (by omega) (by omega), regAt_chStatus hn ha]; rfl

theorem exec_rd32_chHeld {a : Addr} {n : Nat} (hn : n < 16) (ha : a.toNat = 0x080 + 4 * n) (s : State) :
    exec (.rd32 a) s =
    .next { s with response := .data32 (((s.channels.get? n).map Channel.heldWord).getD 0) } := by
  rw [exec_rd32_register (by omega) (by omega), regAt_chHeld hn ha]; rfl

theorem State.reset_channel {n : Nat} {c : Channel} (h : State.reset.channels.get? n = some c) : c = Channel.reset :=
  Bank.mem_fill (Bank.get?_mem h)

theorem Channel.reset_words : Channel.reset.statusWord = 0 ∧ Channel.reset.heldWord = 0 := ⟨rfl, rfl⟩

/-- No channel, or the reset state: both words of the channel's number read 0 (10_state.md R32, R33, R47). -/
theorem State.channelWords_zero {s : State} {n : Nat} (h : 8 ≤ n ∨ s = State.reset) :
    ((s.channels.get? n).map Channel.statusWord).getD 0 = 0 ∧
    ((s.channels.get? n).map Channel.heldWord).getD 0 = 0 := by
  cases hc : s.channels.get? n with
  | none => exact ⟨rfl, rfl⟩
  | some c =>
    obtain hn | rfl := h
    · exact absurd (Bank.get?_lt hc) (Nat.not_lt.mpr hn)
    · rw [State.reset_channel hc]; exact Channel.reset_words

/-- The decoder answers commands only, so every word runs the meaning of the command it decodes to. -/
theorem execCommandWord_eq_exec (w : Word) (s : State) : execCommandWord w s = exec (decodeCommand w) s := by
  unfold execCommandWord decodeCommand
  generalize (w.extractLsb' 0 4).toNat = opcode
  match opcode with
  | 0 => rfl
  | 1 => rfl
  | 2 => rfl
  | 3 => rfl
  | 4 => rfl
  | 5 => rfl
  | 6 => rfl
  | 7 => rfl
  | _ + 8 => rfl

/-! ### The obligations -/

/-- Settles O15: the two bits are the two flags, each a statement about every allocated voice. -/
theorem statusBits : Obligations.StatusBits := by
  intro s
  refine ⟨s.statusWord, rfl, ?_, ?_, ?_, ?_, ?_⟩
  · rw [← s.forall_allocated_iff fun v => v.ampPh = .idle ∨ v.dur = 0, ← s.atEnd_iff, State.statusWord_getLsbD]; rfl
  · rw [← s.forall_allocated_iff fun v => v.ampPh = .idle, ← s.allIdle_iff, State.statusWord_getLsbD]; rfl
  · intro j hj
    rw [State.statusWord_getLsbD, List.getElem?_eq_none (by simpa using hj)]; rfl
  · rw [State.statusWord_getLsbD, State.statusWord_getLsbD]
    exact State.atEnd_of_allIdle
  · rintro rfl
    decide

/-- Settles O17: each register is its channel's word, whose bits the flags of its allocated voices give. -/
theorem channelRegisterBits : Obligations.ChannelRegisterBits := by
  intro s n a b hn ha hb
  rw [exec_rd32_chStatus hn ha, exec_rd32_chHeld hn hb]
  refine ⟨⟨s.channels.get?_some_of_lt, fun ⟨_, hc⟩ => Bank.get?_lt hc⟩, fun h => ?_, fun c hc => ?_⟩
  · obtain ⟨hstatus, hheld⟩ := State.channelWords_zero h
    rw [hstatus, hheld]
    exact ⟨rfl, rfl⟩
  · rw [hc]
    refine ⟨⟨c.statusWord, rfl, fun j hj => ?_, fun j hlo hhi => ?_, fun i _ => c.statusWord_live_iff i⟩,
      ⟨c.heldWord, rfl, fun i _ => c.heldWord_held_iff i, fun j hj => c.heldWord_getLsbD_high hj⟩⟩
    · rw [Channel.statusWord_getLsbD, if_pos hj]
    · rw [Channel.statusWord_getLsbD, if_neg (by omega), if_pos hhi]

/-- Settles O20: the write of CMD runs its word, and the word runs its command. -/
theorem cmdWriteRunsTheCommand : Obligations.CmdWriteRunsTheCommand := by
  intro s w
  have hwrite : exec (.wr32 0x008 w) s = execCommandWord w s := exec_wr32_register (by decide) (by decide) w s
  exact ⟨hwrite.trans (execCommandWord_eq_exec w s), exec_rd32_register (by decide) (by decide) s⟩

/-- Settles O19: OUT_DATA is the one register whose read has an effect, the tick, and its write has none. -/
theorem outDataReadTicks : Obligations.OutDataReadTicks := fun s d =>
  ⟨exec_rd32_register (by decide) (by decide) s, exec_wr32_register (by decide) (by decide) d s⟩

end Sys2Proof.Machine
end

section
/-! Bus accesses (20_memory.md R50 to R60): BusErrors, patch RAM, and the registers that only read. -/

namespace Sys2Proof.Machine

/-! ### BusErrors (R53, R56, R57) -/

theorem exec_rd32_busError {a : Addr} (h : busFault32 a = true) (s : State) :
    exec (.rd32 a) s = .next { s with response := .busError } := if_pos h

theorem exec_wr32_busError {a : Addr} (h : busFault32 a = true) (d : Word) (s : State) :
    exec (.wr32 a d) s = .next { s with response := .busError } := if_pos h

theorem exec_rd8_busError {a : Addr} (h : busFault8 a = true) (s : State) :
    exec (.rd8 a) s = .next { s with response := .busError } := if_pos h

theorem exec_wr8_busError {a : Addr} (h : busFault8 a = true) (d : Byte) (s : State) :
    exec (.wr8 a d) s = .next { s with response := .busError } := if_pos h

/-! ### Bytes of patch RAM, little-endian (R55) -/

theorem Memory.readBytes_one (m : Memory) (a : Nat) : m.readBytes a 1 = (m.read a).toNat := rfl

theorem Memory.readBytes_lt (m : Memory) (a n : Nat) : m.readBytes a n < 256 ^ n := by
  induction n generalizing a with
  | zero => exact Nat.one_pos
  | succ n ih =>
    have hbyte := (m.read a).isLt
    have hrest := ih (a + 1)
    rw [Memory.readBytes, Nat.pow_succ]; omega

/-- Four bytes fit a word, so the word read is their little-endian sum. -/
theorem Memory.toNat_word (m : Memory) (a : Nat) : (BitVec.ofNat 32 (m.readBytes a 4)).toNat =
    (m.read a).toNat + 256 * (m.read (a + 1)).toNat + 65536 * (m.read (a + 2)).toNat +
      16777216 * (m.read (a + 3)).toNat := by
  have hlt : m.readBytes a 4 < 2 ^ 32 := m.readBytes_lt a 4
  rw [BitVec.toNat_ofNat, Nat.mod_eq_of_lt hlt]
  simp only [Memory.readBytes]; ring

/-- Byte i of the bytes of `d` stored is its bits 8i to 8i+7. -/
theorem Memory.read_writeBytes_toNat {m : Memory} (hm : m.wf = true) {a n i w : Nat} (d : BitVec w)
    (ha : Config.patchBase ≤ a) (hi : i < n) :
    (m.writeBytes a n d.toNat).read (a + i) = d.extractLsb' (8 * i) 8 := by
  rw [Memory.read_writeBytes (Memory.rising_of_wf hm) _ ha hi, BitVec.extractLsb', Nat.shiftRight_eq_div_pow,
    Nat.pow_mul]

theorem Memory.read_storeByte {m : Memory} (hm : m.wf = true) {a : Nat} (ha : Config.patchBase ≤ a) (d : Byte)
    (n : Nat) : (m.writeBytes a 1 d.toNat).read n = if n = a then d else m.read n := by
  have hbyte := Memory.read_writeBytes_toNat hm d ha (i := 0) (n := 1) (by decide)
  split_ifs with h0
  · rw [h0]; exact hbyte.trans BitVec.extractLsb'_eq_self
  · exact Memory.read_writeBytes_other _ _ (by omega)

theorem Memory.read_storeWord {m : Memory} (hm : m.wf = true) {a : Nat} (ha : Config.patchBase ≤ a) (d : Word)
    (n : Nat) : (m.writeBytes a 4 d.toNat).read n =
      if n = a then d.extractLsb' 0 8 else if n = a + 1 then d.extractLsb' 8 8
      else if n = a + 2 then d.extractLsb' 16 8 else if n = a + 3 then d.extractLsb' 24 8 else m.read n := by
  have hbyte {i : Nat} (hi : i < 4) := Memory.read_writeBytes_toNat hm d ha hi
  split_ifs with h0 h1 h2 h3
  · rw [h0]; exact hbyte (i := 0) (by decide)
  · rw [h1]; exact hbyte (i := 1) (by decide)
  · rw [h2]; exact hbyte (i := 2) (by decide)
  · rw [h3]; exact hbyte (i := 3) (by decide)
  · exact Memory.read_writeBytes_other _ _ (by omega)

/-! ### Accesses to patch RAM (R55, R56) -/

theorem exec_rd8_patchRam {a : Addr} (h : busFault8 a = false) (s : State) :
    exec (.rd8 a) s = .next { s with response := .data8 (s.patchRam.read a.toNat) } := by
  have hdata : BitVec.ofNat 8 (s.patchRam.readBytes a.toNat 1) = s.patchRam.read a.toNat := by
    rw [Memory.readBytes_one, BitVec.ofNat_toNat, BitVec.setWidth_eq]
  rw [← hdata]
  exact if_neg (by simp [h])

theorem exec_wr8_patchRam {a : Addr} (h : busFault8 a = false) (d : Byte) (s : State) :
    exec (.wr8 a d) s =
    .next { s with patchRam := s.patchRam.writeBytes a.toNat 1 d.toNat, response := .done } :=
  if_neg (by simp [h])

section
variable {a : Addr} (hlo : 0x400 ≤ a.toNat) (hhi : a.toNat < 0x800) (h4 : a.toNat % 4 = 0)
include hlo hhi h4

theorem busFault32_patchRam : busFault32 a = false := by
  rw [← Bool.not_eq_true, busFault32_iff]; omega

theorem exec_rd32_patchRam (s : State) : exec (.rd32 a) s =
    .next { s with response := .data32 (BitVec.ofNat 32 (s.patchRam.readBytes a.toNat 4)) } := by
  simp only [exec, execRd32, busFault32_patchRam hlo hhi h4, regionOf_patchRam hlo hhi]; rfl

theorem exec_wr32_patchRam (d : Word) (s : State) : exec (.wr32 a d) s =
    .next { s with patchRam := s.patchRam.writeBytes a.toNat 4 d.toNat, response := .done } := by
  simp only [exec, execWr32, busFault32_patchRam hlo hhi h4, regionOf_patchRam hlo hhi]; rfl

end

/-! ### Registers without a read or a write effect (R54, R58, R60) -/

/-- Only CMD, DUR, ERR and TEMPO take a write. -/
theorem exec_wr32_ignored {a : Addr} (h : a.toNat < 0x100) (h4 : a.toNat % 4 = 0)
    (hne : a.toNat ≠ 0x008 ∧ a.toNat ≠ 0x00C ∧ a.toNat ≠ 0x014 ∧ a.toNat ≠ 0x01C) (d : Word) (s : State) :
    exec (.wr32 a d) s = .next { s with response := .done } := by
  obtain ⟨-, hcmd, hdur, herr, htempo⟩ := regAt_effects a
  obtain ⟨hne_cmd, hne_dur, hne_err, hne_tempo⟩ := hne
  rw [exec_wr32_register h h4]
  cases hr : regAt a with
  | cmd => exact absurd (congrArg BitVec.toNat (hcmd hr)) hne_cmd
  | dur => exact absurd (congrArg BitVec.toNat (hdur hr)) hne_dur
  | err => exact absurd (congrArg BitVec.toNat (herr hr)) hne_err
  | tempo => exact absurd (congrArg BitVec.toNat (htempo hr)) hne_tempo
  | _ => rfl

theorem State.afterRead_of_ne_outData (s : State) {r : Reg} (h : r ≠ .outData) : s.afterRead r = s := by
  cases r with
  | outData => exact absurd rfl h
  | _ => rfl

/-- No register shows the answer on the bus. -/
theorem State.readReg_response (s : State) (q : BusResponse) (r : Reg) :
    ({ s with response := q } : State).readReg r = s.readReg r := by
  cases r <;> rfl

/-! ### Reads without an effect (R58) -/

/-- A 32-bit read of any address but OUT_DATA answers the same whatever was answered before, and does no more. -/
theorem exec_rd32_of_ne_outData {a : Addr} (ha : a ≠ 0x024) (s : State) :
    ∃ r, ∀ q, exec (.rd32 a) { s with response := q } = .next { s with response := r } := by
  by_cases hf : busFault32 a = true
  · exact ⟨.busError, fun q => exec_rd32_busError hf _⟩
  · have hmap := mt (busFault32_iff a).mpr hf
    by_cases hreg : a.toNat < 0x100
    · have hout : regAt a ≠ .outData := fun hr => ha ((regAt_effects a).1 hr)
      refine ⟨.data32 (s.readReg (regAt a)), fun q => ?_⟩
      rw [exec_rd32_register hreg (by omega), State.afterRead_of_ne_outData _ hout, State.readReg_response]; rfl
    · exact ⟨.data32 (BitVec.ofNat 32 (s.patchRam.readBytes a.toNat 4)),
        fun q => exec_rd32_patchRam (by omega) (by omega) (by omega) { s with response := q }⟩

/-- An 8-bit read answers the same whatever was answered before, and does no more. -/
theorem exec_rd8_answers (a : Addr) (s : State) :
    ∃ r, ∀ q, exec (.rd8 a) { s with response := q } = .next { s with response := r } := by
  cases hf : busFault8 a with
  | true => exact ⟨.busError, fun q => exec_rd8_busError hf _⟩
  | false => exact ⟨.data8 (s.patchRam.read a.toNat), fun q => exec_rd8_patchRam hf { s with response := q }⟩

/-! ### The obligations -/

/-- Settles O9: these accesses are the ones that the two fault sets hold. -/
theorem busErrorsChangeNothing : Obligations.BusErrorsChangeNothing := by
  intro s a d b
  constructor
  · intro h
    have hf := (busFault32_iff a).mpr h
    exact ⟨exec_rd32_busError hf s, exec_wr32_busError hf d s⟩
  · intro h
    have hf := (busFault8_iff a).mpr h
    exact ⟨exec_rd8_busError hf s, exec_wr8_busError hf b s⟩

/-- Settles O10: an access reads or writes the bytes at its address, and a byte read after a write is the stored one
or the old one. -/
theorem patchRamAccess : Obligations.PatchRamAccess := by
  intro s a hlo hhi old
  have hf8 : busFault8 a = false := by
    rw [← Bool.not_eq_true, busFault8_iff]; omega
  refine ⟨exec_rd8_patchRam hf8 s, fun hm d => ?byteWrite, fun h4 => ⟨?wordRead, fun hm d => ?wordWrite⟩,
    fun h4 d => ?misaligned⟩
  case byteWrite => exact ⟨_, exec_wr8_patchRam hf8 d s, Memory.read_storeByte hm hlo d⟩
  case wordRead => exact ⟨_, exec_rd32_patchRam hlo hhi h4 s, s.patchRam.toNat_word a.toNat⟩
  case wordWrite => exact ⟨_, exec_wr32_patchRam hlo hhi h4 d s, Memory.read_storeWord hm hlo d⟩
  case misaligned =>
    have hf32 := (busFault32_iff a).mpr (.inr (.inr h4))
    exact ⟨exec_rd32_busError hf32 s, exec_wr32_busError hf32 d s⟩

/-- Settles O13: no channel has a number of 8 or more, and a reserved word has no value. -/
theorem reservedWordsReadZeroAndIgnoreWrites : Obligations.ReservedWordsReadZeroAndIgnoreWrites := by
  intro s a d h4 h
  refine ⟨?_, exec_wr32_ignored (by omega) h4 (by omega) d s⟩
  by_cases hstatus : 0x060 ≤ a.toNat ∧ a.toNat < 0x080
  · obtain ⟨n, hn⟩ : ∃ n, a.toNat = 0x040 + 4 * n := ⟨(a.toNat - 0x040) / 4, by omega⟩
    rw [exec_rd32_chStatus (by omega) hn, (State.channelWords_zero (.inl (by omega))).1]
  · by_cases hheld : 0x0A0 ≤ a.toNat ∧ a.toNat < 0x0C0
    · obtain ⟨n, hn⟩ : ∃ n, a.toNat = 0x080 + 4 * n := ⟨(a.toNat - 0x080) / 4, by omega⟩
      rw [exec_rd32_chHeld (by omega) hn, (State.channelWords_zero (.inl (by omega))).2]
    · rw [exec_rd32_register (by omega) h4, regAt_reserved (by omega) (by omega) (by omega)]; rfl

/-- Settles O14: none of these addresses is CMD, DUR, ERR or TEMPO. -/
theorem readOnlyRegistersIgnoreWrites : Obligations.ReadOnlyRegistersIgnoreWrites := by
  intro s a d h
  simp only [List.mem_cons, List.not_mem_nil, or_false] at h
  exact exec_wr32_ignored (by omega) (by omega) (by omega) d s

/-- Settles O18: the answer of a read without an effect does not depend on the answer before it. -/
theorem onlyOutDataReadsChangeState : Obligations.OnlyOutDataReadsChangeState := by
  intro s a
  refine ⟨fun ha => ?_, ?_, exec_rd32_register (by decide) (by decide) s⟩
  · obtain ⟨r, hr⟩ := exec_rd32_of_ne_outData ha s
    exact ⟨r, hr s.response, hr r⟩
  · obtain ⟨r, hr⟩ := exec_rd8_answers a s
    exact ⟨r, hr s.response, hr r⟩

end Sys2Proof.Machine
end

section
/-! Command words (30_encoding.md R71 to R76): the fields of a word built from them, what each opcode decodes to, and
the words that are rejected whatever the state. -/

namespace Sys2Proof

/-! ### The fields of a word built from fields (R71) -/

/-- A field is read off the word's number. -/
theorem field_eq_of_toNat {w : Word} {n lo k : Nat} {x : BitVec k} (hw : w.toNat = n)
    (hfield : n / 2 ^ lo % 2 ^ k = x.toNat) : w.extractLsb' lo k = x :=
  BitVec.eq_of_toNat_eq (by rw [toNat_field, hw, hfield])

section
variable (op ch slot : BitVec 4) (key vel : BitVec 7) (rsv : BitVec 6)

@[simp] theorem noteWord_op : (noteWord op ch slot key vel rsv).extractLsb' 0 4 = op :=
  BitVec.extractLsb'_append_eq_right

@[simp] theorem noteWord_ch : (noteWord op ch slot key vel rsv).extractLsb' 4 4 = ch :=
  field_eq_of_toNat (noteWord_toNat op ch slot key vel rsv) (by omega)

@[simp] theorem noteWord_slot : (noteWord op ch slot key vel rsv).extractLsb' 8 4 = slot :=
  field_eq_of_toNat (noteWord_toNat op ch slot key vel rsv) (by omega)

@[simp] theorem noteWord_key : (noteWord op ch slot key vel rsv).extractLsb' 12 7 = key :=
  field_eq_of_toNat (noteWord_toNat op ch slot key vel rsv) (by omega)

@[simp] theorem noteWord_vel : (noteWord op ch slot key vel rsv).extractLsb' 19 7 = vel :=
  field_eq_of_toNat (noteWord_toNat op ch slot key vel rsv) (by omega)

@[simp] theorem noteWord_rsv : (noteWord op ch slot key vel rsv).extractLsb' 26 6 = rsv :=
  field_eq_of_toNat (noteWord_toNat op ch slot key vel rsv) (by omega)

/-- The word's number with the fields above the opcode summed on their own, as the statements write it. -/
theorem noteWord_toNat_above_op : (noteWord op ch slot key vel rsv).toNat =
    op.toNat + (16 * ch.toNat + 256 * slot.toNat + 4096 * key.toNat + 524288 * vel.toNat + 67108864 * rsv.toNat) := by
  rw [noteWord_toNat]; omega

end

@[simp] theorem opWord_op (op : BitVec 4) (rest : BitVec 28) : (opWord op rest).extractLsb' 0 4 = op :=
  BitVec.extractLsb'_append_eq_right

@[simp] theorem opWord_above4 (op : BitVec 4) (rest : BitVec 28) : (opWord op rest).extractLsb' 4 28 = rest :=
  BitVec.extractLsb'_append_eq_left

@[simp] theorem offWord_op (ch : BitVec 4) (unused : BitVec 24) : (offWord ch unused).extractLsb' 0 4 = 3 :=
  BitVec.extractLsb'_append_eq_right

@[simp] theorem offWord_ch (ch : BitVec 4) (unused : BitVec 24) : (offWord ch unused).extractLsb' 4 4 = ch :=
  field_eq_of_toNat (offWord_toNat ch unused) (by omega)

@[simp] theorem offWord_above8 (ch : BitVec 4) (unused : BitVec 24) :
    (offWord ch unused).extractLsb' 8 24 = unused :=
  field_eq_of_toNat (offWord_toNat ch unused) (by omega)

@[simp] theorem reservedWord_op (op : BitVec 3) (rest : BitVec 28) :
    (reservedWord op rest).extractLsb' 0 4 = 1#1 ++ op :=
  BitVec.extractLsb'_append_eq_right

@[simp] theorem reservedWord_low (op : BitVec 3) (rest : BitVec 28) :
    (reservedWord op rest).extractLsb' 0 3 = op :=
  field_eq_of_toNat (reservedWord_toNat op rest) (by omega)

@[simp] theorem reservedWord_above4 (op : BitVec 3) (rest : BitVec 28) :
    (reservedWord op rest).extractLsb' 4 28 = rest :=
  BitVec.extractLsb'_append_eq_left

/-! ### What each word decodes to (R73, R74) -/

theorem decodeCommand_opWord (rest : BitVec 28) :
    decodeCommand (opWord 0 rest) = .nop rest ∧ decodeCommand (opWord 4 rest) = .allOff rest ∧
    decodeCommand (opWord 5 rest) = .clearCount rest ∧ decodeCommand (opWord 6 rest) = .engineReset rest ∧
    decodeCommand (opWord 7 rest) = .reservedOp7 rest := by
  simp [decodeCommand]

theorem decodeCommand_noteWord (ch slot : BitVec 4) (key vel : BitVec 7) (rsv : BitVec 6) :
    decodeCommand (noteWord 1 ch slot key vel rsv) = .noteOn ch slot key vel rsv ∧
    decodeCommand (noteWord 2 ch slot key vel rsv) = .noteOnT ch slot key vel rsv := by
  simp [decodeCommand]

theorem decodeCommand_offWord (ch : BitVec 4) (unused : BitVec 24) :
    decodeCommand (offWord ch unused) = .noteOff ch unused := by
  simp [decodeCommand]

theorem decodeCommand_reservedWord (op : BitVec 3) (rest : BitVec 28) :
    decodeCommand (reservedWord op rest) = .reservedOp8F op rest := by
  have hop : (1#1 ++ op).toNat = op.toNat + 8 := by
    rw [toNat_append_add, Nat.add_comm]; rfl
  simp only [decodeCommand, reservedWord_op, reservedWord_low, reservedWord_above4, hop]

/-- A word given as its number decodes as the word does. -/
theorem decodeCommand_ofNat {w : Word} {n : Nat} (hw : w.toNat = n) :
    decodeCommand (BitVec.ofNat 32 n) = decodeCommand w := by
  rw [← hw, BitVec.ofNat_toNat, BitVec.setWidth_eq]

end Sys2Proof

namespace Sys2Proof.Machine

/-! ### Words rejected in every state (R74, R76) -/

/-- A command whose first failing check is e is, in the spec's words, rejected with e's code and its word's number. -/
theorem rejectedBy_of_firstError {i : Instr} {s : State} {w : Word} {checks : List (Bool × ErrCode)}
    {effect : State → State} (hexec : exec i s = runCommand w checks effect s) {n : Nat} (hw : w.toNat = n)
    {e : ErrCode} (hfirst : firstError checks = some e) : RejectedBy i s e.code (BitVec.ofNat 32 n) := by
  obtain ⟨t, hrun, hrejected⟩ := runCommand_rejects hw hfirst effect s
  exact ⟨t, hexec.trans hrun, hrejected⟩

/-- The check of the reserved bits, where it comes first, decides for a command that has one of them set. -/
theorem firstError_rsvd {k : Nat} {x : BitVec k} (hx : x ≠ 0) (later : List (Bool × ErrCode)) :
    firstError ((x != 0, .rsvd) :: later) = some .rsvd :=
  if_pos (bne_iff_ne.mpr hx)

/-! ### The obligations -/

/-- Settles O3: each number is that of the word built from the same fields, which decodes to them. -/
theorem commandFieldPositions : Obligations.CommandFieldPositions := by
  intro ch slot key vel rsv above8 above4 low fields
  obtain ⟨hnop, hallOff, hclearCount, hengineReset, hop7⟩ := decodeCommand_opWord above4
  obtain ⟨hnoteOn, hnoteOnT⟩ := decodeCommand_noteWord ch slot key vel rsv
  have hopWord (op : BitVec 4) := decodeCommand_ofNat (opWord_toNat op above4)
  have hnoteWord (op : BitVec 4) := decodeCommand_ofNat (noteWord_toNat_above_op op ch slot key vel rsv)
  exact ⟨(hopWord 0).trans hnop, (hnoteWord 1).trans hnoteOn, (hnoteWord 2).trans hnoteOnT,
    (decodeCommand_ofNat (offWord_toNat ch above8)).trans (decodeCommand_offWord ch above8),
    (hopWord 4).trans hallOff, (hopWord 5).trans hclearCount, (hopWord 6).trans hengineReset, (hopWord 7).trans hop7,
    (decodeCommand_ofNat (reservedWord_toNat low above4)).trans (decodeCommand_reservedWord low above4)⟩

/-- Settles O23: every command checks its reserved and unused bits first. -/
theorem reservedFieldsAreRejected : Obligations.ReservedFieldsAreRejected := by
  intro s ch slot key vel rsv above8 above4 fields
  refine ⟨fun hrsv => ?_, fun habove8 => ?_, fun habove4 => ?_⟩
  · have hword (op : BitVec 4) := noteWord_toNat_above_op op ch slot key vel rsv
    have hfirst := firstError_rsvd hrsv
    exact ⟨rejectedBy_of_firstError (exec_noteOn s ch slot key vel rsv) (hword 1) (hfirst _),
      rejectedBy_of_firstError (exec_noteOnT s ch slot key vel rsv) (hword 2) (hfirst _)⟩
  · exact rejectedBy_of_firstError (exec_noteOff s ch above8) (offWord_toNat ch above8) (firstError_rsvd habove8 _)
  · have hword (op : BitVec 4) := opWord_toNat op above4
    have hfirst := firstError_rsvd habove4 []
    have hnop : (opWord 0 above4).toNat = 16 * above4.toNat := (hword 0).trans (Nat.zero_add _)
    exact ⟨rejectedBy_of_firstError (exec_nop s above4) hnop hfirst,
      rejectedBy_of_firstError (exec_allOff s above4) (hword 4) hfirst,
      rejectedBy_of_firstError (exec_clearCount s above4) (hword 5) hfirst,
      rejectedBy_of_firstError (exec_engineReset s above4) (hword 6) hfirst⟩

/-- Settles O22: the one check of a reserved opcode always fails. -/
theorem reservedOpcodesAreRejected : Obligations.ReservedOpcodesAreRejected := fun s low rest =>
  ⟨rejectedBy_of_firstError (exec_reservedOp7 s rest) (opWord_toNat 7 rest) rfl,
    rejectedBy_of_firstError (exec_reservedOp8F s low rest) (reservedWord_toNat low rest) rfl⟩

end Sys2Proof.Machine
end

section
/-! The patch record of a slot (30_encoding.md R77 to R79, 40_commands.md R102): the fields of a byte as numbers, and
what a legal slot decodes to. -/

namespace Sys2Proof.Machine

/-! ### The fields of a byte -/

/-- A byte in the range of a parameter is its low seven bits. -/
theorem toNat_setWidth_seven {b : Byte} (h : b.toNat ≤ 100) : (b.setWidth 7).toNat = b.toNat := by
  rw [BitVec.toNat_setWidth]; omega

theorem getLsbD_iff_toNat {w : Nat} (b : BitVec w) (i : Nat) : b.getLsbD i = true ↔ b.toNat / 2 ^ i % 2 = 1 := by
  rw [BitVec.getLsbD, Nat.testBit_eq_decide_div_mod_eq, decide_eq_true_iff]

/-! ### Legal records -/

/-- The bytes of a legal operator record that a parameter is read from are in its range (R78). -/
theorem opLegal_limits {byte : Nat → Byte} {b : Nat} (h : opLegal byte b = true) :
    (byte b).toNat ≤ 100 ∧ (byte (b + 2)).toNat ≤ 99 ∧ (byte (b + 3)).toNat ≤ 100 ∧ (byte (b + 4)).toNat ≤ 100 ∧
    (byte (b + 5)).toNat ≤ 100 ∧ (byte (b + 6)).toNat ≤ 100 := by
  simp only [opLegal, Bool.and_eq_true, decide_eq_true_eq] at h
  obtain ⟨⟨⟨⟨⟨⟨⟨hlevel, -⟩, hfine⟩, hdetune⟩, hA⟩, hD⟩, hS⟩, -⟩ := h
  exact ⟨hlevel, hfine, hdetune, hA, hD, hS⟩

/-- A slot is legal by its algorithm, its ten parameter bytes and its operator records (R79). -/
theorem patchLegal_iff (byte : Nat → Byte) : patchLegal byte = true ↔
    (1 ≤ (byte 0).toNat ∧ (byte 0).toNat ≤ 11) ∧ (∀ off, 1 ≤ off → off ≤ 10 → (byte off).toNat ≤ 100) ∧
    ∀ k : OpIx, opLegal byte (opOffset k) = true := by
  have hparams : (∀ off ∈ [1, 2, 3, 4, 5, 6, 7, 8, 9, 10], (byte off).toNat ≤ 100) ↔
      ∀ off, 1 ≤ off → off ≤ 10 → (byte off).toNat ≤ 100 := by
    refine ⟨fun h off hlo hhi => h off ?_, fun h off hoff => ?_⟩
    · simp only [List.mem_cons, List.not_mem_nil, or_false]; omega
    · simp only [List.mem_cons, List.not_mem_nil, or_false] at hoff
      exact h off (by omega) (by omega)
  simp only [patchLegal, Bool.and_eq_true, decide_eq_true_eq, List.all_eq_true, hparams, OpIx.mem_all, true_implies,
    and_assoc]

/-! ### Decoding -/

@[simp] theorem decodePatch_op (byte : Nat → Byte) (k : OpIx) :
    (decodePatch byte).op.get k = decodeOp byte (opOffset k) := by
  cases k <;> rfl

/-- The record of a legal operator holds its bytes (R78). -/
theorem decodeOp_fields {byte : Nat → Byte} {b : Nat} (h : opLegal byte b = true) :
    let o := decodeOp byte b
    o.level.toNat = (byte b).toNat ∧ (o.fixed = true ↔ (byte (b + 1)).toNat / 128 = 1) ∧
    o.coarse.toNat = (byte (b + 1)).toNat % 16 ∧ o.fine.toNat = (byte (b + 2)).toNat ∧
    o.detune.toNat = (byte (b + 3)).toNat ∧ o.opA.toNat = (byte (b + 4)).toNat ∧
    o.opD.toNat = (byte (b + 5)).toNat ∧ o.opS.toNat = (byte (b + 6)).toNat ∧
    (o.loop = true ↔ (byte (b + 7)).toNat % 2 = 1) := by
  obtain ⟨hlevel, hfine, hdetune, hA, hD, hS⟩ := opLegal_limits h
  refine ⟨toNat_setWidth_seven hlevel, ?fixed, ?coarse, toNat_setWidth_seven (by omega), toNat_setWidth_seven hdetune,
    toNat_setWidth_seven hA, toNat_setWidth_seven hD, toNat_setWidth_seven hS, ?loop⟩
  case fixed =>
    have hbyte := (byte (b + 1)).isLt
    exact (getLsbD_iff_toNat _ 7).trans (by omega)
  case coarse => exact BitVec.extractLsb'_toNat ..
  case loop => exact (getLsbD_iff_toNat _ 0).trans (by omega)

/-! ### The obligation -/

/-- Settles O53: the parameters of a legal slot fit the seven bits they are stored in, and its algorithm four. -/
theorem patchDecode : Obligations.PatchDecode := by
  intro byte hlegal p
  obtain ⟨⟨-, halg⟩, hparams, hops⟩ := (patchLegal_iff byte).mp hlegal
  have hparam {off : Nat} (hlo : 1 ≤ off) (hhi : off ≤ 10) : ((byte off).setWidth 7).toNat = (byte off).toNat :=
    toNat_setWidth_seven (hparams off hlo hhi)
  have halgorithm : ((byte 0).setWidth 4).toNat = (byte 0).toNat := by
    rw [BitVec.toNat_setWidth]; omega
  refine ⟨halgorithm, hparam ?_ ?_, hparam ?_ ?_, hparam ?_ ?_, hparam ?_ ?_, hparam ?_ ?_, hparam ?_ ?_,
    hparam ?_ ?_, hparam ?_ ?_, hparam ?_ ?_, hparam ?_ ?_, fun k => ?operator⟩
  case operator =>
    dsimp only [p]
    rw [decodePatch_op]
    exact decodeOp_fields (hops k)
  all_goals decide

end Sys2Proof.Machine
end

section
/-! Commands (40_commands.md R91 to R97): what the effect of each leaves of the channels and of STATUS, and each
command's rule. -/

namespace Sys2Proof.Machine

/-! ### One channel changed -/

theorem State.modifyChannel_onlyChannel {s : State} {n : Nat} {c : Channel} (hc : s.channels.get? n = some c)
    (f : Channel → Channel) : s.OnlyChannel (s.modifyChannel n f) n (f c) :=
  ⟨Bank.get?_modify_same f hc, fun _ hm => Bank.get?_modify_other f hm⟩

/-- A statement about every channel, by channel number. -/
theorem State.forall_channels_iff (s : State) (P : Channel → Prop) :
    (∀ c ∈ s.channels.list, P c) ↔ ∀ n c, s.channels.get? n = some c → P c := by
  constructor
  · intro h n c hc
    exact h c (Bank.get?_mem hc)
  · intro h c hc
    obtain ⟨n, hn⟩ := List.mem_iff_getElem?.mp hc
    exact h n c hn

/-- Where one channel has changed, a statement about every channel is one about it and about the others as they
were. -/
theorem State.forall_channels_of_onlyChannel {s t : State} {n : Nat} {c' : Channel} (h : s.OnlyChannel t n c')
    (P : Channel → Prop) : (∀ c ∈ t.channels.list, P c) ↔
      P c' ∧ ∀ m d, m ≠ n → s.channels.get? m = some d → P d := by
  obtain ⟨hsame, hother⟩ := h
  rw [State.forall_channels_iff]
  constructor
  · intro hall
    exact ⟨hall n c' hsame, fun m d hm hd => hall m d ((hother m hm).trans hd)⟩
  · rintro ⟨hchanged, hrest⟩ m d hd
    by_cases hm : m = n
    · subst hm
      obtain rfl : c' = d := Option.some.inj (hsame.symm.trans hd)
      exact hchanged
    · exact hrest m d hm ((hother m hm).symm.trans hd)

/-! ### A started note (R92, R99) -/

/-- The voice a note was started on is allocated, in ATTACK and holds the note's duration. -/
theorem Channel.NoteStarted_sounds {c c' : Channel} {p : Snap} {key vel : BitVec 7} {d : Word}
    (h : c.NoteStarted c' p key vel d) :
    ∃ i v, i < c'.alloc.toNat ∧ c'.voices.get? i = some v ∧ v.ampPh = .attack ∧ v.dur = d := by
  obtain ⟨i, v, hi, -, -, -, halloc, hv, -⟩ | ⟨-, -, halloc, hv, -⟩ := h
  · exact ⟨i, _, by rwa [halloc], hv, rfl, rfl⟩
  · exact ⟨c.alloc.toNat, _, by omega, hv, rfl, rfl⟩

/-- A voice that sounds and is not free clears both bits of STATUS (43_mixer.md R163, R164). -/
theorem State.flags_false_of_sounding {s : State} {n i : Nat} {c : Channel} {v : Voice}
    (hc : s.channels.get? n = some c) (hi : i < c.alloc.toNat) (hv : c.voices.get? i = some v)
    (hphase : v.ampPh ≠ .idle) (hdur : v.dur ≠ 0) : s.atEnd = false ∧ s.allIdle = false := by
  have hatEnd : ¬ s.atEnd = true := by
    rw [State.atEnd_iff, s.forall_allocated_iff fun v => v.ampPh = .idle ∨ v.dur = 0]
    intro h
    exact (h n c i v hc hi hv).elim hphase hdur
  exact ⟨Bool.eq_false_iff.mpr hatEnd, Bool.eq_false_iff.mpr (mt State.atEnd_of_allIdle hatEnd)⟩

/-- alloc(c) would fail exactly where no voice is free and the pool is at its limit (R99). -/
theorem State.poolFull_iff {s : State} {n : Nat} {c : Channel} (hc : s.channels.get? n = some c) :
    s.poolFull n = true ↔ c.NoneFree ∧ 8 ≤ c.alloc.toNat := by
  have hfull : s.poolFull n = c.allocate.isNone := by rw [State.poolFull, State.channel?, hc]
  rw [hfull, ← Bool.not_eq_false, Option.isNone_eq_false_iff, Channel.allocate_isSome_iff, not_or, not_not, not_lt]

/-- What NOTE_ON and NOTE_ON_T do once their checks have passed, for a duration that is not 0. -/
theorem State.startNote_rule {s : State} {ch slot : BitVec 4} {c : Channel} (key vel : BitVec 7) {d : Word}
    (hc : s.channels.get? ch.toNat = some c) (hroom : ¬ c.NoneFree ∨ c.alloc.toNat < 8) (hd : d ≠ 0) :
    let t := (s.startNote ch slot key vel d).respond .done
    ∃ c', c.NoteStarted c' (decodePatch (s.patchByte slot.toNat)) key vel d ∧ s.OnlyChannel t ch.toNat c' ∧
      t = { s with channels := t.channels, response := .done } ∧ t.atEnd = false ∧ t.allIdle = false := by
  intro t
  have hstarted := c.startNote_started (decodePatch (s.patchByte slot.toNat)) key vel d
    (c.allocate_isSome_iff.mpr hroom)
  have honly : s.OnlyChannel t ch.toNat _ := State.modifyChannel_onlyChannel hc _
  obtain ⟨i, v, hi, hv, hphase, hdur⟩ := Channel.NoteStarted_sounds hstarted
  exact ⟨_, hstarted, honly, rfl,
    State.flags_false_of_sounding honly.1 hi hv (by rw [hphase]; decide) (by rwa [hdur])⟩

/-! ### Checks of the note commands, in their order (60_exceptions.md R196) -/

section
variable {s : State} {ch slot : BitVec 4} {rsv : BitVec 6}

/-- The checks on the slot and the pool, which both note commands make last. -/
def State.patchAndPoolError (s : State) (ch slot : BitVec 4) : Option ErrCode :=
  firstError [(!patchLegal (s.patchByte slot.toNat), .patchVal), (s.poolFull ch.toNat, .pool)]

theorem State.patchAndPoolError_patchVal (h : patchLegal (s.patchByte slot.toNat) = false) :
    s.patchAndPoolError ch slot = some .patchVal := by
  simp [State.patchAndPoolError, firstError, h]

/-- For a legal slot only the pool decides: full, it is E_POOL. -/
theorem State.patchAndPoolError_pool {c : Channel} (hc : s.channels.get? ch.toNat = some c)
    (h : patchLegal (s.patchByte slot.toNat) = true) (hnone : c.NoneFree) (hlimit : 8 ≤ c.alloc.toNat) :
    s.patchAndPoolError ch slot = some .pool := by
  have hfull := (State.poolFull_iff hc).mpr ⟨hnone, hlimit⟩
  simp [State.patchAndPoolError, firstError, h, hfull]

/-- With a legal slot and room in the pool, both checks pass. -/
theorem State.patchAndPoolError_none {c : Channel} (hc : s.channels.get? ch.toNat = some c)
    (h : patchLegal (s.patchByte slot.toNat) = true) (hroom : ¬ c.NoneFree ∨ c.alloc.toNat < 8) :
    s.patchAndPoolError ch slot = none := by
  have hfull : ¬ s.poolFull ch.toNat = true := by
    rwa [State.poolFull_iff hc, not_and_or, not_le]
  simp [State.patchAndPoolError, firstError, h, hfull]

theorem firstError_noteOn_channel (hrsv : rsv = 0) (hch : 8 ≤ ch.toNat) :
    firstError (s.noteOnChecks ch slot rsv) = some .channel := by
  simp [State.noteOnChecks, firstError, hrsv, hch]

theorem firstError_noteOnT_channel (hrsv : rsv = 0) (hch : 8 ≤ ch.toNat) :
    firstError (s.noteOnTChecks ch slot rsv) = some .channel := by
  simp [State.noteOnTChecks, firstError, hrsv, hch]

variable (hrsv : rsv = 0) (hch : ch.toNat < 8)
include hrsv hch

/-- NOTE_ON's checks after those of RSV and CH: E_PATCH never fails, as a SLOT of four bits names one of 16 slots. -/
theorem firstError_noteOn : firstError (s.noteOnChecks ch slot rsv) =
    if s.dur = 0 then some .duration else s.patchAndPoolError ch slot := by
  have hchannel : ¬ Config.NCH ≤ ch.toNat := Nat.not_le.mpr hch
  have hslot : ¬ Config.NPATCH ≤ slot.toNat := Nat.not_le.mpr slot.isLt
  simp [State.noteOnChecks, State.patchAndPoolError, firstError, hrsv, hchannel, hslot]

/-- NOTE_ON_T's checks after those of RSV and CH. -/
theorem firstError_noteOnT : firstError (s.noteOnTChecks ch slot rsv) =
    if s.dur ≠ indefinite ∧ s.tempo = 0 then some .tempo
    else if s.timedDuration = 0 then some .duration else s.patchAndPoolError ch slot := by
  have hchannel : ¬ Config.NCH ≤ ch.toNat := Nat.not_le.mpr hch
  have hslot : ¬ Config.NPATCH ≤ slot.toNat := Nat.not_le.mpr slot.isLt
  simp [State.noteOnTChecks, State.patchAndPoolError, firstError, hrsv, hchannel, hslot]

end

/-! ### Durations in tracker ticks (R93, R101) -/

theorem State.timedDuration_indefinite {s : State} (h : s.dur = indefinite) : s.timedDuration = indefinite := if_pos h

/-- A conversion saturates below 2^32 - 1, so the word holds it whole. -/
theorem State.timedDuration_toNat {s : State} (h : s.dur ≠ indefinite) :
    s.timedDuration.toNat = min (480000 / s.tempo.toNat * (s.dur.toNat + 1) / 32) 0xFFFFFFFE := by
  rw [State.timedDuration, if_neg h, BitVec.toNat_ofNat]
  exact Nat.mod_eq_of_lt (Nat.lt_of_le_of_lt (Nat.min_le_right _ _) (by decide))

theorem State.timedDuration_eq_zero_iff {s : State} : s.timedDuration = 0 ↔
    s.dur ≠ indefinite ∧ min (480000 / s.tempo.toNat * (s.dur.toNat + 1) / 32) 0xFFFFFFFE = 0 := by
  by_cases h : s.dur = indefinite
  · rw [State.timedDuration_indefinite h, h]
    exact iff_of_false (by decide) fun ⟨hne, _⟩ => hne rfl
  · rw [← State.timedDuration_toNat h, ← BitVec.toNat_inj]
    exact (and_iff_right h).symm

/-! ### Voices released and free (R94, R95) -/

@[simp] theorem Voice.off_released (v : Voice) : v.off.released = v.released := by
  rw [Bool.eq_iff_iff, Voice.released_iff, Voice.released_iff]
  exact EnvPhase.released_eq_idle v.ampPh

/-- Once off, a channel's allocated voices are free, so it does not hold AT_END up. -/
theorem Channel.off_idle_or_free (c : Channel) : ∀ v ∈ c.off.allocated, v.ampPh = .idle ∨ v.dur = 0 := by
  intro v hv
  rw [Channel.off_allocated] at hv
  obtain ⟨u, -, rfl⟩ := List.mem_map.mp hv
  exact .inr rfl

/-- Releasing a voice makes none idle that was not. -/
theorem Channel.off_idle_iff (c : Channel) :
    (∀ v ∈ c.off.allocated, v.ampPh = .idle) ↔ ∀ v ∈ c.allocated, v.ampPh = .idle := by
  simp only [Channel.off_allocated, List.forall_mem_map, ← Voice.released_iff, Voice.off_released]

section
variable {s t : State} {n : Nat} {c : Channel} (h : s.OnlyChannel t n c.off)
include h

theorem State.allIdle_of_channelOff (hc : s.channels.get? n = some c) : t.allIdle = s.allIdle := by
  have hsame : s.OnlyChannel s n c := ⟨hc, fun _ _ => rfl⟩
  have hafter := State.forall_channels_of_onlyChannel h fun c => ∀ v ∈ c.allocated, v.ampPh = .idle
  have hbefore := State.forall_channels_of_onlyChannel hsame fun c => ∀ v ∈ c.allocated, v.ampPh = .idle
  rw [Bool.eq_iff_iff, State.allIdle_iff, State.allIdle_iff, hafter, hbefore, Channel.off_idle_iff]

theorem State.atEnd_of_channelOff : t.atEnd = true ↔
    ∀ m d v, m ≠ n → s.channels.get? m = some d → v ∈ d.allocated → v.ampPh = .idle ∨ v.dur = 0 := by
  have hafter := State.forall_channels_of_onlyChannel h fun c => ∀ v ∈ c.allocated, v.ampPh = .idle ∨ v.dur = 0
  rw [State.atEnd_iff, hafter, and_iff_right c.off_idle_or_free]
  exact ⟨fun hothers m d v hm hd => hothers m d hm hd v, fun hothers m d hm hd v => hothers m d v hm hd⟩

end

theorem State.mapChannels_get? (s : State) (f : Channel → Channel) (n : Nat) :
    (s.mapChannels f).channels.get? n = (s.channels.get? n).map f := by
  rw [State.mapChannels_channels, Bank.get?_mapFirst]
  cases hc : s.channels.get? n with
  | none => exact ite_self _
  | some c => exact if_pos (Bank.get?_lt hc)

/-! ### The obligations -/

/-- Settles O24: past its checks NOTE_ON starts its note, whose voice sounds. -/
theorem noteOnRule : Obligations.NoteOnRule := by
  intro s ch slot key vel rsv fields i w slotByte
  have hrejected {e : ErrCode} (hfirst : firstError (s.noteOnChecks ch slot rsv) = some e) :
      RejectedBy i s e.code w :=
    rejectedBy_of_firstError (exec_noteOn ..) (noteWord_toNat_above_op ..) hfirst
  refine ⟨fun hrsv => hrejected (firstError_rsvd hrsv _),
    fun hrsv hch => hrejected (firstError_noteOn_channel hrsv hch),
    fun hrsv hch hdur => hrejected (e := .duration) ?_,
    fun hrsv hch hdur hpatch => hrejected (e := .patchVal) ?_,
    fun c hrsv hc hdur hpatch => ?_⟩
  · rw [firstError_noteOn hrsv hch, if_pos hdur]
  · rw [firstError_noteOn hrsv hch, if_neg hdur, State.patchAndPoolError_patchVal hpatch]
  · have hfirst : firstError (s.noteOnChecks ch slot rsv) = s.patchAndPoolError ch slot :=
      (firstError_noteOn hrsv (Bank.get?_lt hc)).trans (if_neg hdur)
    refine ⟨fun hnone hlimit => ?_, fun hroom => ?_⟩
    · exact hrejected (hfirst.trans (State.patchAndPoolError_pool hc hpatch hnone hlimit))
    · have hpass := hfirst.trans (State.patchAndPoolError_none hc hpatch hroom)
      obtain ⟨c', hrule⟩ := State.startNote_rule key vel hc hroom hdur
      exact ⟨_, c', (exec_noteOn ..).trans (runCommand_runs hpass ..), hrule⟩

/-- Settles O25: NOTE_ON with a converted duration, whose two ways to fail come before the slot and the pool. -/
theorem noteOnTRule : Obligations.NoteOnTRule := by
  intro s ch slot key vel rsv fields i w slotByte samples held timed
  have hrejected {e : ErrCode} (hfirst : firstError (s.noteOnTChecks ch slot rsv) = some e) :
      RejectedBy i s e.code w :=
    rejectedBy_of_firstError (exec_noteOnT ..) (noteWord_toNat_above_op ..) hfirst
  have hzero : s.timedDuration = 0 ↔ ¬ held ∧ samples = 0 := State.timedDuration_eq_zero_iff
  have hnonzero (h : held ∨ timed ∧ samples ≠ 0) : s.timedDuration ≠ 0 := fun h0 =>
    have ⟨hheld, hsamples⟩ := hzero.mp h0
    h.elim hheld fun ⟨_, hne⟩ => hne hsamples
  have hfirst (hrsv : rsv = 0) (hch : ch.toNat < 8) (h : held ∨ timed ∧ samples ≠ 0) :
      firstError (s.noteOnTChecks ch slot rsv) = s.patchAndPoolError ch slot := by
    have htempo : ¬ (s.dur ≠ indefinite ∧ s.tempo = 0) := fun ⟨hheld, h0⟩ => h.elim hheld fun ⟨⟨_, hne⟩, _⟩ => hne h0
    rw [firstError_noteOnT hrsv hch, if_neg htempo, if_neg (hnonzero h)]
  refine ⟨fun hrsv => hrejected (firstError_rsvd hrsv _),
    fun hrsv hch => hrejected (firstError_noteOnT_channel hrsv hch),
    fun hrsv hch hheld htempo => hrejected (e := .tempo) ?_,
    fun hrsv hch ⟨hheld, htempo⟩ hsamples => hrejected (e := .duration) ?_,
    fun hrsv hch hdur hpatch => hrejected ((hfirst hrsv hch hdur).trans (State.patchAndPoolError_patchVal hpatch)),
    fun c hrsv hc hdur hpatch => ⟨fun hnone hlimit => ?_, fun hroom => ?_⟩⟩
  · rw [firstError_noteOnT hrsv hch, if_pos ⟨hheld, htempo⟩]
  · rw [firstError_noteOnT hrsv hch, if_neg (fun h => htempo h.2), if_pos (hzero.mpr ⟨hheld, hsamples⟩)]
  · exact hrejected ((hfirst hrsv (Bank.get?_lt hc) hdur).trans
      (State.patchAndPoolError_pool hc hpatch hnone hlimit))
  · have hpass := (hfirst hrsv (Bank.get?_lt hc) hdur).trans (State.patchAndPoolError_none hc hpatch hroom)
    obtain ⟨c', hrule⟩ := State.startNote_rule key vel hc hroom (hnonzero hdur)
    exact ⟨_, c', s.timedDuration, (exec_noteOnT ..).trans (runCommand_runs hpass ..),
      State.timedDuration_indefinite, fun htimed => State.timedDuration_toNat htimed.1, hrule⟩

/-- Settles O26: the released voices hold AT_END up no longer, and ALL_IDLE as they did. -/
theorem noteOffRule : Obligations.NoteOffRule := by
  intro s ch above8 w
  have hfirst (habove8 : above8 = 0) : firstError [(above8 != 0, .rsvd), (decide (8 ≤ ch.toNat), .channel)] =
      if 8 ≤ ch.toNat then some .channel else none := by
    simp [firstError, habove8]
  have hrejected {e : ErrCode} := rejectedBy_of_firstError (exec_noteOff s ch above8) (offWord_toNat ch above8) (e := e)
  refine ⟨fun habove8 => hrejected (firstError_rsvd habove8 _),
    fun habove8 hch => hrejected ((hfirst habove8).trans (if_pos hch)), fun c habove8 hc => ?_⟩
  have hpass := (hfirst habove8).trans (if_neg (Nat.not_le.mpr (Bank.get?_lt hc)))
  have honly : s.OnlyChannel ((s.modifyChannel ch.toNat Channel.off).respond .done) ch.toNat c.off :=
    State.modifyChannel_onlyChannel hc Channel.off
  refine ⟨_, c.off, (exec_noteOff ..).trans (runCommand_runs hpass ..), honly, rfl, c.off_get?, rfl,
    c.off_heldWord, State.allIdle_of_channelOff honly hc, State.atEnd_of_channelOff honly⟩

/-- Settles O27: every channel is turned off as NOTE_OFF turns off one. -/
theorem allOffRule : Obligations.AllOffRule := by
  intro s above4
  refine ⟨fun habove4 => rejectedBy_of_firstError (exec_allOff ..) (opWord_toNat 4 above4) (firstError_rsvd habove4 _),
    _, (exec_allOff ..).trans (runCommand_runs rfl ..), fun n c hc => ?channel, rfl, ?atEnd⟩
  case channel =>
    exact ⟨c.off, by rw [State.respond_channels, State.mapChannels_get?, hc]; rfl, rfl, c.off_heldWord, c.off_get?⟩
  case atEnd =>
    rw [State.atEnd_iff, State.forall_channels_iff _ fun c => ∀ v ∈ c.allocated, v.ampPh = .idle ∨ v.dur = 0]
    intro n c' hc'
    rw [State.respond_channels, State.mapChannels_get?] at hc'
    obtain ⟨c, -, rfl⟩ := Option.map_eq_some_iff.mp hc'
    exact c.off_idle_or_free

/-- Settles O29: every channel is filled in at its reset values, where no voice is allocated. -/
theorem engineResetRule : Obligations.EngineResetRule := by
  intro s above4
  refine ⟨fun habove4 =>
      rejectedBy_of_firstError (exec_engineReset ..) (opWord_toNat 6 above4) (firstError_rsvd habove4 _),
    _, (exec_engineReset ..).trans (runCommand_runs rfl ..), fun n c hc => ?_, rfl, rfl⟩
  obtain rfl : c = Channel.reset := Bank.mem_fill (Bank.get?_mem hc)
  exact ⟨rfl, fun i v hv => Bank.mem_fill (Bank.get?_mem hv), Channel.reset_words⟩

/-- Settles O21: NOP's one check is that of its unused bits, and it has no effect. -/
theorem nopRule : Obligations.NopRule := by
  intro s unused
  have hword : (opWord 0 unused).toNat = 16 * unused.toNat := (opWord_toNat 0 unused).trans (Nat.zero_add _)
  exact ⟨(exec_nop ..).trans (runCommand_runs rfl ..),
    fun hunused => rejectedBy_of_firstError (exec_nop ..) hword (firstError_rsvd hunused _)⟩

/-- Settles O28: CLEAR_COUNT's one check is that of its unused bits, and its effect is on the counter alone. -/
theorem clearCountRule : Obligations.ClearCountRule := fun _ above4 =>
  ⟨(exec_clearCount ..).trans (runCommand_runs rfl ..), fun habove4 =>
    rejectedBy_of_firstError (exec_clearCount ..) (opWord_toNat 5 above4) (firstError_rsvd habove4 _)⟩

end Sys2Proof.Machine
end

section
/-! The voice engine (41_voice_engine.md R110 to R131): trigger and release, glide, LFO, the operators and the sample,
each as a formula with its range. -/

namespace Sys2Proof.Machine

/-! ### Arithmetic -/

/-- The statements write the floor of R11 as Int.fdiv. -/
theorem asr_eq_fdiv (x : Int) (n : Nat) : asr x n = Int.fdiv x (2 ^ n : Nat) :=
  (Int.fdiv_eq_ediv_of_nonneg x (Int.natCast_nonneg _)).symm

@[simp] theorem asr_zero (n : Nat) : asr 0 n = 0 := Int.zero_ediv _

/-- A level enters an amplitude without its low eight bits. -/
theorem shiftRight_eight (n : Nat) : n.shiftRight 8 = n / 256 := Nat.shiftRight_eq_div_pow n 8

theorem mul_range {x y a b : Int} (hx : -a ≤ x ∧ x ≤ a) (hy : -b ≤ y ∧ y ≤ b) : -(a * b) ≤ x * y ∧ x * y ≤ a * b := by
  rw [← abs_le] at hx hy ⊢
  rw [abs_mul]
  exact mul_le_mul hx hy (abs_nonneg y) ((abs_nonneg x).trans hx)

/-- A factor of at most 4096, taken back by the shift, keeps a range. -/
theorem asr_mul_range {x a : Int} {n : Nat} (hx : -a ≤ x ∧ x ≤ a) (hn : n ≤ 4096) :
    -a ≤ asr (x * n) 12 ∧ asr (x * n) 12 ≤ a := by
  obtain ⟨hlo, hhi⟩ := mul_range (b := 4096) hx (y := n) (by omega)
  simp only [asr]
  omega

/-! ### Trigger and release (R110, R111) -/

theorem Voice.glides_iff (v : Voice) (p : Snap) : v.glides p = true ↔ v.ampPh ≠ .idle ∧ p.glide ≠ 0 := by
  simp [Voice.glides]

/-- GLIDE has seven bits, so a glide's length fits G_LEN. -/
theorem glideLength_toNat (g : BitVec 7) : (BitVec.ofNat 14 (g.toNat * 80)).toNat = g.toNat * 80 := by
  rw [BitVec.toNat_ofNat]; omega

theorem Voice.trigger_glides {v : Voice} {p : Snap} (h : v.glides p = true) (key vel : BitVec 7) :
    (v.trigger p key vel).gFrom = v.base ∧ (v.trigger p key vel).gLen.toNat = p.glide.toNat * 80 := by
  simp only [Voice.trigger, h, if_true, glideLength_toNat, and_self]

theorem Voice.trigger_not_glides {v : Voice} {p : Snap} (h : ¬ v.glides p = true) (key vel : BitVec 7) :
    (v.trigger p key vel).gFrom = keyInc key ∧ (v.trigger p key vel).gLen = 0 :=
  ⟨if_neg h, if_neg h⟩

theorem EnvPhase.released_eq (ph : EnvPhase) :
    ph.released = if ph = .attack ∨ ph = .decay ∨ ph = .sustain then .release else ph := by
  cases ph <;> rfl

theorem Voice.release_release (v : Voice) : v.release.release = v.release := by
  have hops : v.release.release.opPh = v.release.opPh := Quad.eq_of_get fun k => by
    rw [Voice.release_opPh, Voice.release_opPh, EnvPhase.released_released]
  calc v.release.release = { v with ampPh := v.ampPh.released.released, opPh := v.release.release.opPh } := rfl
    _ = v.release := by rw [hops, EnvPhase.released_released]; rfl

/-! ### Glide (R114) -/

/-- The point at position `n` of the line from G_FROM to G_TO over G_LEN ticks, floored. -/
def Voice.glideLine (v : Voice) (n : Nat) : Nat :=
  if v.gFrom.toNat ≤ v.gTo.toNat then v.gFrom.toNat + (v.gTo.toNat - v.gFrom.toNat) * n / v.gLen.toNat
  else v.gFrom.toNat - (v.gFrom.toNat - v.gTo.toNat) * n / v.gLen.toNat

theorem Voice.glideBase_eq (v : Voice) :
    v.glideBase = if v.gLen.toNat ≤ v.gPos.toNat then v.gTo.toNat else v.glideLine v.gPos.toNat := rfl

@[simp] theorem Voice.glideLine_zero (v : Voice) : v.glideLine 0 = v.gFrom.toNat := by simp [Voice.glideLine]

/-- The line stays between its ends. -/
theorem Voice.glideLine_le (v : Voice) {n : Nat} (hn : n ≤ v.gLen.toNat) :
    v.glideLine n ≤ max v.gFrom.toNat v.gTo.toNat := by
  unfold Voice.glideLine
  split
  case isTrue hrise =>
    have hpart : (v.gTo.toNat - v.gFrom.toNat) * n / v.gLen.toNat ≤ v.gTo.toNat - v.gFrom.toNat :=
      Nat.div_le_of_le_mul (by rw [Nat.mul_comm]; exact Nat.mul_le_mul_right _ hn)
    omega
  case isFalse => exact (Nat.sub_le ..).trans (Nat.le_max_left ..)

/-- BASE has the 33 bits of G_FROM and G_TO, so it holds a tick's base increment whole. -/
theorem Voice.glideStep_base_toNat (v : Voice) : v.glideStep.base.toNat = v.glideBase := by
  have hfrom := v.gFrom.isLt
  have hto := v.gTo.isLt
  rw [Voice.glideStep_base, BitVec.toNat_ofNat, Nat.mod_eq_of_lt]
  rw [Voice.glideBase_eq]
  split
  case isTrue => exact hto
  case isFalse hpos =>
    have := v.glideLine_le (n := v.gPos.toNat) (by omega)
    omega

/-- G_POS advances below G_LEN, and stands from there on. -/
theorem Voice.glideStep_gPos_toNat (v : Voice) : v.glideStep.gPos.toNat =
    if v.gLen.toNat ≤ v.gPos.toNat then v.gPos.toNat else v.gPos.toNat + 1 := by
  have hlen := v.gLen.isLt
  unfold Voice.glideStep
  dsimp only
  split
  case isTrue => rfl
  case isFalse => rw [BitVec.toNat_ofNat]; omega

/-- From G_POS = 0, `k` ticks keep the line and come to its position `k`, or to its end. -/
theorem Voice.glideStep_iterate {v : Voice} (h : v.gPos = 0) (k : Nat) :
    (Voice.glideStep^[k] v).gFrom = v.gFrom ∧ (Voice.glideStep^[k] v).gTo = v.gTo ∧
    (Voice.glideStep^[k] v).gLen = v.gLen ∧ (Voice.glideStep^[k] v).gPos.toNat = min k v.gLen.toNat := by
  induction k with
  | zero => simp [h]
  | succ k ih =>
    obtain ⟨hfrom, hto, hlen, hpos⟩ := ih
    rw [Function.iterate_succ_apply']
    refine ⟨hfrom, hto, hlen, ?_⟩
    rw [Voice.glideStep_gPos_toNat, hlen, hpos]
    split <;> omega

theorem Voice.glideBase_iterate {v : Voice} (h : v.gPos = 0) (k : Nat) :
    (Voice.glideStep^[k] v).glideBase = if k < v.gLen.toNat then v.glideLine k else v.gTo.toNat := by
  obtain ⟨hfrom, hto, hlen, hpos⟩ := Voice.glideStep_iterate h k
  rw [Voice.glideBase_eq, Voice.glideLine, hfrom, hto, hlen, hpos]
  by_cases hk : k < v.gLen.toNat
  · rw [if_neg (by omega), if_pos hk, Nat.min_eq_left hk.le, Voice.glideLine]
  · rw [if_pos (by omega), if_neg hk]

/-! ### LFO (R115, R116) -/

theorem Voice.lfoRamp_le (v : Voice) : v.lfoRamp ≤ 256 := by
  unfold Voice.lfoRamp
  dsimp only
  split
  case isTrue => exact le_rfl
  case isFalse => exact Nat.div_le_of_le_mul (Nat.mul_le_mul_right _ (Nat.min_le_right ..))

theorem Voice.lfoRamp_first {v : Voice} (hattack : v.snap.lfoAttack ≠ 0) (hage : v.lfoAge = 0) : v.lfoRamp = 0 := by
  have hlength : v.snap.lfoAttack.toNat ≠ 0 := fun h => hattack (BitVec.eq_of_toNat_eq h)
  simp [Voice.lfoRamp, hlength, hage]

theorem Voice.lfoRamp_full {v : Voice} (h : v.snap.lfoAttack.toNat * 80 ≤ v.lfoAge.toNat) : v.lfoRamp = 256 := by
  unfold Voice.lfoRamp
  dsimp only
  split
  case isTrue => rfl
  case isFalse hlength => rw [Nat.min_eq_right h, Nat.mul_div_cancel_left _ (Nat.pos_of_ne_zero hlength)]

theorem Voice.lfoMod_range {v : Voice} (h : v.snap.lfoPmd.toNat ≤ 100) :
    -104832000 ≤ v.lfoMod ∧ v.lfoMod ≤ 104832000 := by
  have hramp := v.lfoRamp_le
  unfold Voice.lfoMod
  split
  case isTrue => decide
  case isFalse =>
    have hdepth := mul_range (b := 100) (sin_range (v.lfoPhase.extractLsb' 22 10)) (y := v.snap.lfoPmd.toNat) (by omega)
    exact mul_range (b := 256) hdepth (y := v.lfoRamp) (by omega)

/-- The sine index of the LFO is its phase's bits 31:22. -/
theorem extract_index (x : BitVec 32) : x.extractLsb' 22 10 = BitVec.ofNat 10 (x.toNat / 2 ^ 22) := by
  apply BitVec.eq_of_toNat_eq
  rw [toNat_field, BitVec.toNat_ofNat]

theorem Voice.lfoStep_lfoAge_toNat (v : Voice) : v.lfoStep.lfoAge.toNat = min (v.lfoAge.toNat + 1) 8000 := by
  simp only [Voice.lfoStep, BitVec.toNat_ofNat, Config.LFO_AGE_MAX]
  omega

/-! ### Increments (R117 to R119) -/

theorem lfoInc_toNat (inc2 : Nat) (m : Int) :
    ((lfoInc inc2 m).toNat : Int) = ((inc2 : Int) + Int.fdiv ((inc2 : Int) * m) (2 ^ 31)) % 2 ^ 32 := by
  rw [lfoInc, BitVec.toNat_ofInt, asr_eq_fdiv]
  exact Int.toNat_of_nonneg (Int.emod_nonneg _ (by decide))

/-- A factor above -2^31 takes less than the increment from it. -/
theorem modulated_nonneg (inc2 : Nat) {m : Int} (h : -104832000 ≤ m) :
    0 ≤ (inc2 : Int) + Int.fdiv ((inc2 : Int) * m) (2 ^ 31) := by
  have hprod : (inc2 : Int) * -104832000 ≤ inc2 * m := mul_le_mul_of_nonneg_left h (Int.natCast_nonneg _)
  rw [Int.fdiv_eq_ediv_of_nonneg _ (by decide)]
  omega

@[simp] theorem lfoInc_zero (m : Int) : lfoInc 0 m = 0 := by simp [lfoInc]

/-! ### Modulation and feedback (R120, R121) -/

/-- A sum over some operators, none twice, is a sum over all four. -/
theorem sum_map_of_nodup {ks : List OpIx} (h : ks.Nodup) (f : OpIx → Int) :
    (ks.map f).sum = (OpIx.all.map fun k => if k ∈ ks then f k else 0).sum := by
  have hsub : OpIx.all.toFinset ∩ ks.toFinset = ks.toFinset :=
    Finset.inter_eq_right.mpr fun k _ => List.mem_toFinset.mpr k.mem_all
  calc (ks.map f).sum = ∑ k ∈ OpIx.all.toFinset ∩ ks.toFinset, f k := by rw [hsub, List.sum_toFinset f h]
    _ = ∑ k ∈ OpIx.all.toFinset, if k ∈ ks.toFinset then f k else 0 := (Finset.sum_ite_mem ..).symm
    _ = _ := by simp only [List.mem_toFinset, List.sum_toFinset _ OpIx.length_all.2.2]

/-- The operators with an edge to operator `k`. -/
def AlgRow.sources (row : AlgRow) (k : OpIx) : List OpIx := (row.edges.filter fun e => e.2 == k).map Prod.fst

theorem AlgRow.mem_sources {row : AlgRow} {j k : OpIx} : j ∈ row.sources k ↔ (j, k) ∈ row.edges := by
  simp [AlgRow.sources]

theorem algRow_sources_nodup (a : BitVec 4) (k : OpIx) : ((algRow a).sources k).Nodup := by
  obtain ⟨-, hedges, -⟩ := algRow_rises a
  refine (hedges.filter _).map_on fun e he e' he' hfst => ?_
  simp only [List.mem_filter, beq_iff_eq] at he he'
  exact Prod.ext hfst (he.2.trans he'.2.symm)

theorem Voice.modIn_eq (v : Voice) (k : OpIx) (out : Quad Int) :
    v.modIn k out = (OpIx.all.map fun j => if (j, k) ∈ (algRow v.snap.alg).edges then out.get j else 0).sum +
      (if k = (algRow v.snap.alg).fbop then v.fbTerm else 0) := by
  have hsum := sum_map_of_nodup (algRow_sources_nodup v.snap.alg k) out.get
  simp only [AlgRow.mem_sources] at hsum
  rw [← hsum, AlgRow.sources, List.map_map]
  rfl

theorem Voice.fbTerm_range {v : Voice} (hprev : v.FeedbackInRange) (hfb : v.snap.feedback.toNat ≤ 100) :
    -3200 ≤ v.fbTerm ∧ v.fbTerm ≤ 3199 := by
  have hprod := mul_range (b := 50) hprev (y := (v.snap.feedback.toNat : Int) - 50) (by omega)
  simp only [Voice.fbTerm, asr, Config.FB_SHIFT]
  omega

/-! ### Operator outputs (R122 to R124) -/

theorem phaseIndex_toNat (phase : BitVec 32) (pm : Int) :
    ((phaseIndex phase pm).toNat : Int) = ((phase.toNat : Int) + pm * 2 ^ 20) % 2 ^ 32 / 2 ^ 22 := by
  rw [phaseIndex, toNat_field, BitVec.toNat_ofInt]
  simp only [Config.MOD_SHIFT]
  omega

theorem Voice.opAmp_eq (v : Voice) (k : OpIx) :
    v.opAmp k = (v.snap.op.get k).level.toNat * ((v.opE.get k).toNat / 256) / 100 := by
  rw [Voice.opAmp, shiftRight_eight]

theorem Voice.operatorOut_congr (v : Voice) {k : OpIx} {out out' : Quad Int}
    (h : ∀ j, j.num < k.num → out.get j = out'.get j) : v.operatorOut out k = v.operatorOut out' k := by
  rw [Voice.operatorOut, Voice.modIn_congr v k h, Voice.operatorOut]

/-- The loop over the operators is a fixed point: an operator reads only outputs that are already this tick's. -/
theorem Voice.outputs_get_eq (v : Voice) (k : OpIx) : v.outputs.get k = v.operatorOut v.outputs k := by
  cases k <;> exact v.operatorOut_congr fun j hj => by cases j <;> simp [OpIx.num] at hj <;> rfl

theorem Voice.outputs_range {v : Voice} {k : OpIx} (hlevel : (v.snap.op.get k).level.toNat ≤ 100)
    (he : (v.opE.get k).toNat ≤ 1048576) : -4095 ≤ v.outputs.get k ∧ v.outputs.get k ≤ 4095 := by
  rw [Voice.outputs_get_eq]
  exact opOut_range _ (Voice.opAmp_le hlevel he)

/-! ### The sample (R127 to R131) -/

theorem carrierSum_eq (p : Snap) (out : Quad Int) :
    carrierSum p out = (OpIx.all.map fun k => if k ∈ (algRow p.alg).carriers then out.get k else 0).sum :=
  sum_map_of_nodup (algRow_rises p.alg).2.2 out.get

theorem sum_all_range {f : OpIx → Int} {a : Int} (h : ∀ k, -a ≤ f k ∧ f k ≤ a) :
    -(4 * a) ≤ (OpIx.all.map f).sum ∧ (OpIx.all.map f).sum ≤ 4 * a := by
  have h1 := h .op1
  have h2 := h .op2
  have h3 := h .op3
  have h4 := h .op4
  simp only [OpIx.all, List.map, List.sum_cons, List.sum_nil]
  omega

theorem carrierSum_range (p : Snap) {out : Quad Int} (h : ∀ k, -4095 ≤ out.get k ∧ out.get k ≤ 4095) :
    -16380 ≤ carrierSum p out ∧ carrierSum p out ≤ 16380 := by
  rw [carrierSum_eq]
  refine sum_all_range (a := 4095) fun k => ?_
  split
  case isTrue => exact h k
  case isFalse => decide

theorem Voice.amp_eq (v : Voice) (cs : Int) :
    v.amp cs = Int.fdiv (Int.fdiv (cs * (v.ampE.toNat / 256 : Nat)) 4096 * (v.gain : Int)) 4096 := by
  rw [Voice.amp, shiftRight_eight]
  simp only [asr_eq_fdiv]
  rfl

theorem Voice.amp_of_level_zero {v : Voice} (h : v.ampE = 0) (cs : Int) : v.amp cs = 0 := by
  simp [Voice.amp, h]

theorem Voice.amp_of_gain_zero {v : Voice} (h : v.gain = 0) (cs : Int) : v.amp cs = 0 := by simp [Voice.amp, h]

@[simp] theorem Voice.advance_gain (v : Voice) : v.advance.gain = v.gain := by simp [Voice.gain]

theorem Voice.gain_of_silent {v : Voice} (h : v.snap.volume = 0 ∨ v.vel = 0) : v.gain = 0 := by
  obtain h | h := h <;> simp [Voice.gain, h]

/-- The gain is at most 4096, and 4096 only where both factors are at their greatest. -/
theorem Voice.gain_range {v : Voice} (h : v.snap.volume.toNat ≤ 100) :
    v.gain ≤ 4096 ∧ (v.gain = 4096 ↔ v.snap.volume = 100 ∧ v.vel = 127) := by
  have hvel : v.vel.toNat ≤ 127 := by omega
  have hvolume : v.snap.volume.toNat * v.vel.toNat ≤ v.snap.volume.toNat * 127 := Nat.mul_le_mul_left _ hvel
  have hvelocity : v.snap.volume.toNat * v.vel.toNat ≤ 100 * v.vel.toNat := Nat.mul_le_mul_right _ h
  unfold Voice.gain
  refine ⟨by omega, fun hfull => ⟨?_, ?_⟩, fun ⟨hfullVolume, hfullVel⟩ => by simp [hfullVolume, hfullVel]⟩
  · exact BitVec.eq_of_toNat_eq (show _ = 100 by omega)
  · exact BitVec.eq_of_toNat_eq (show _ = 127 by omega)

theorem outMap_toNat (a2 : Int) : ((outMap a2).toNat : Int) = min 255 (max 0 (128 + Int.fdiv a2 32)) := by
  rw [outMap, clamp, asr_eq_fdiv, BitVec.toNat_ofInt]
  show _ = min 255 (max 0 (128 + Int.fdiv a2 (2 ^ Config.OUT_SHIFT : Nat)))
  omega

theorem outMap_zero : outMap 0 = 128 := by decide

theorem Voice.render_sample (v : Voice) :
    v.render.2 = outMap (v.advance.amp (carrierSum v.snap v.advance.outputs)) := by
  simp only [Voice.render, Voice.sample, Voice.advance_snap]

theorem Snap.InRange.operator {p : Snap} (h : p.InRange) (k : OpIx) : (p.op.get k).InRange := by
  obtain ⟨-, -, -, -, -, -, -, -, -, -, -, -, hops⟩ := h
  exact hops k k.mem_all

theorem Snap.InRange.sustain {p : Snap} (h : p.InRange) : p.envS.toNat ≤ 100 := by
  obtain ⟨-, -, -, -, -, -, -, hsustain, -⟩ := h
  exact hsustain

/-- In a tick the levels stay in range, and with them the operators' outputs. -/
theorem Voice.advance_outputs_range {v : Voice} (hsnap : v.snap.InRange) (hlevels : v.LevelsInRange) (k : OpIx) :
    -4095 ≤ v.advance.outputs.get k ∧ v.advance.outputs.get k ≤ 4095 := by
  obtain ⟨hlevel, -, -, -, -, hsustain⟩ := hsnap.operator k
  refine Voice.outputs_range (by rwa [Voice.advance_snap]) ?_
  rw [Voice.advance_opE]
  exact opEnvStep_le hsustain _ (hlevels.2 k k.mem_all)

/-! ### The obligations -/

/-- Settles O43: a step is at a point of the line, and `k` steps from G_POS = 0 are at its point `k`. -/
theorem glideRule : Obligations.GlideRule := by
  intro v k line u
  refine ⟨fun hend => ⟨?_, if_pos hend⟩, fun hpos => ⟨?_, ?_⟩, rfl, v.glideStep_base_toNat,
    fun hzero => Voice.glideBase_iterate hzero k, fun hzero hlen => ?_⟩
  · rw [Voice.glideBase_eq, if_pos hend]
  · rw [Voice.glideBase_eq, if_neg (by omega)]; rfl
  · rw [Voice.glideStep_gPos_toNat, if_neg (by omega)]
  · exact (Voice.glideBase_iterate hzero 0).trans (by rw [if_pos hlen, Voice.glideLine_zero])

/-- Settles O44: the ramp is a part of 256, so the factor is within 4095 * 100 * 256. -/
theorem lfoRanges : Obligations.LfoRanges := by
  intro v la
  refine ⟨rfl, ?_, rfl, BitVec.toNat_ofNat .., v.lfoStep_lfoAge_toNat, v.lfoRamp_le, Voice.lfoRamp_first,
    Voice.lfoRamp_full, Voice.lfoMod_range⟩
  rw [Voice.lfoMod, extract_index]

/-- Settles O45: both modes are reduced before the LFO, whose factor is above -2^31 and takes away less than all. -/
theorem operatorIncrement : Obligations.OperatorIncrement := by
  intro p base m hlo hhi ratio inc2 x
  have hinc : opInc p base m = lfoInc inc2 m := by
    unfold opInc fixedInc ratioInc fixInc
    dsimp only [inc2, ratio]
    split <;> rfl
  refine ⟨modulated_nonneg inc2 hlo, ?_, fun hratio hdetune => ?_, fun hratio hcoarse hfine => ?_⟩
  · rw [hinc, lfoInc_toNat]
  · simp [inc2, hratio, hdetune]
  · have hzero : inc2 = 0 := by simp [inc2, ratio, hratio, hcoarse, hfine]
    rw [hinc, hzero, lfoInc_zero]

/-- Settles O46: FB_PREV and FEEDBACK - 50 bound the feedback term, and no edge of a row is repeated. -/
theorem feedbackTermRange : Obligations.FeedbackTermRange := by
  intro v k out p key vel row
  refine ⟨asr_eq_fdiv _ 6, Voice.fbTerm_range, fun hfifty => ?_, ?_, v.modIn_eq k out⟩
  · simp [Voice.fbTerm, hfifty]
  · simp [Voice.fbTerm, Voice.trigger]

/-- Settles O47: an operator's output is a sine value scaled by an amplitude of at most 4096. -/
theorem operatorOutputRange : Obligations.OperatorOutputRange := by
  refine ⟨phaseIndex_toNat, ?_⟩
  intro v k level idx
  exact ⟨v.opAmp_eq k, (v.outputs_get_eq k).trans (asr_eq_fdiv _ 12),
    fun hlevel he => ⟨Voice.opAmp_le hlevel he, Voice.outputs_range hlevel he⟩⟩

/-- Settles O48: the sample is out_map of the carrier sum under the two gains, each of which keeps its range. -/
theorem silentVoiceOutputs128 : Obligations.SilentVoiceOutputs128 := by
  intro v out level cs a1 gain a2
  have hcs : carrierSum v.snap out = cs := carrierSum_eq ..
  have hamp : v.advance.amp (carrierSum v.snap out) = a2 := by
    rw [Voice.amp_eq, Voice.advance_ampE, Voice.advance_gain, hcs]; rfl
  refine ⟨?_, fun hsilent => ⟨Voice.gain_of_silent hsilent, ?_⟩, Voice.gain_range, fun hsnap hlevels => ?_⟩
  · rw [Voice.render_sample, hamp, outMap_toNat]
  · have hgain : v.advance.gain = 0 := by rw [Voice.advance_gain, Voice.gain_of_silent hsilent]
    rw [Voice.render_sample, Voice.amp_of_gain_zero hgain, outMap_zero]
  · have hrange : -16380 ≤ cs ∧ cs ≤ 16380 := hcs ▸ carrierSum_range v.snap (Voice.advance_outputs_range hsnap hlevels)
    have hlevel : level ≤ 1048576 := ampEnvStep_le hsnap.sustain v.ampPh hlevels.1
    have ha1 : a1 = asr (cs * (level / 256 : Nat)) 12 := (asr_eq_fdiv _ 12).symm
    obtain ⟨hlo, hhi⟩ := asr_mul_range (n := level / 256) hrange (by omega)
    exact ⟨hrange.1, hrange.2, ha1 ▸ hlo, ha1 ▸ hhi⟩

/-- Settles O50: an overall envelope that is IDLE after a tick is at level 0, which makes the amplitude 0. -/
theorem goingIdleClearsOperators : Obligations.GoingIdleClearsOperators := by
  intro v hidle
  have hlevel : v.advance.ampE = 0 := by
    rw [Voice.render_ampPh] at hidle
    rw [Voice.advance_ampE, ampEnvStep_idle _ _ _ hidle]
  obtain ⟨hphases, hlevels⟩ := v.render_ops.1 hidle
  refine ⟨by rw [Voice.render_sample, Voice.amp_of_level_zero hlevel, outMap_zero], fun k => ?_⟩
  rw [hphases, hlevels, Quad.get_fill, Quad.get_fill]
  exact ⟨rfl, rfl⟩

/-- Settles O41: only G_FROM, BASE and G_LEN depend on whether the voice glides. -/
theorem triggerRule : Obligations.TriggerRule := by
  intro v p key vel t glides
  refine ⟨fun h => Voice.trigger_glides ((v.glides_iff p).mpr h) key vel,
    fun h => Voice.trigger_not_glides (mt (v.glides_iff p).mp h) key vel, rfl, rfl, rfl, rfl, rfl, rfl,
    fun k => ⟨Quad.get_fill .., Quad.get_fill .., Quad.get_fill ..⟩, rfl, rfl, rfl, rfl, rfl, rfl⟩

/-- Settles O42: release changes phases alone, and a phase it has moved stays. -/
theorem releaseRule : Obligations.ReleaseRule := fun v =>
  ⟨EnvPhase.released_eq _, fun k => (v.release_opPh k).trans (EnvPhase.released_eq _), rfl, v.release_release⟩

/-- Settles O49: the clamped value is in the range of a byte, so it is stored whole. -/
theorem outputSaturates : Obligations.OutputSaturates := outMap_toNat

end Sys2Proof.Machine
end

section
/-! The envelope generators (42_envelopes.md R140 to R151): one tick of each phase, as a formula for the level and a
rule for the phase, which the level it reaches decides. -/

namespace Sys2Proof.Machine

/-! ### Levels fit 21 bits -/

/-- The 7-bit S may be above 100 in an unreachable state, and even its target fits a level's register. -/
theorem sus_lt (level : BitVec 7) : sus level.toNat < 2 ^ 21 := by
  unfold sus Config.EFULL
  omega

theorem envFall_lt {target : Nat} (htarget : target < 2 ^ 21) (t : Nat) (e : BitVec 21) :
    envFall t target e.toNat < 2 ^ 21 := by
  unfold envFall
  split
  · exact htarget
  · exact max_lt htarget ((Nat.sub_le ..).trans_lt e.isLt)

/-! ### A rise or fall by a time parameter -/

theorem envRise_eq (t : BitVec 7) (e : Nat) :
    envRise t.toNat e = if t = 0 then 1048576 else min 1048576 (e + envStep t.toNat) :=
  if_congr (BitVec.toNat_inj (y := 0)) rfl rfl

theorem envFall_eq (t : BitVec 7) (target e : Nat) :
    envFall t.toNat target e = if t = 0 then target else max target (e - envStep t.toNat) :=
  if_congr (BitVec.toNat_inj (y := 0)) rfl rfl

/-! ### ATTACK, and the falls of DECAY and RELEASE -/

theorem envAttack_level (t : BitVec 7) (e : BitVec 21) : (envAttack t e).2.toNat = envRise t.toNat e.toNat :=
  level_toNat (envRise_le ..)

theorem envAttack_phase (t : BitVec 7) (e : BitVec 21) :
    (envAttack t e).1 = if (envAttack t e).2.toNat = 1048576 then .decay else .attack := by
  rw [envAttack_level]
  rfl

theorem envFallTo_level {target : Nat} (htarget : target < 2 ^ 21) (t : BitVec 7) (during after : EnvPhase)
    (e : BitVec 21) : (envFallTo t target during after e).2.toNat = envFall t.toNat target e.toNat :=
  (BitVec.toNat_ofNat ..).trans (Nat.mod_eq_of_lt (envFall_lt htarget ..))

theorem envFallTo_phase {target : Nat} (htarget : target < 2 ^ 21) (t : BitVec 7) (during after : EnvPhase)
    (e : BitVec 21) : (envFallTo t target during after e).1 =
      if (envFallTo t target during after e).2.toNat = target then after else during := by
  rw [envFallTo_level htarget]
  rfl

/-! ### The obligations -/

/-- Settles O39: no level is cut by its 21 bits, so each phase is decided by the level stored. -/
theorem operatorEnvelopeRules : Obligations.OperatorEnvelopeRules := by
  intro p e step target att dec
  have htarget : target < 2 ^ 21 := sus_lt p.opS
  exact ⟨(envAttack_level ..).trans (envRise_eq ..), envAttack_phase ..,
    (envFallTo_level htarget ..).trans (envFall_eq ..), envFallTo_phase htarget .., rfl, rfl, rfl⟩

/-- Settles O40: DECAY and RELEASE are one fall, to the sustain level and to 0. -/
theorem overallEnvelopeRules : Obligations.OverallEnvelopeRules := by
  intro p e step target att dec rel
  have htarget : target < 2 ^ 21 := sus_lt p.envS
  have hzero : 0 < 2 ^ 21 := Nat.two_pow_pos 21
  have hrelLevel : rel.2.toNat = if p.envR = 0 then 0 else e.toNat - step p.envR := by
    rw [← Nat.zero_max (e.toNat - step p.envR)]
    exact (envFallTo_level hzero ..).trans (envFall_eq ..)
  have hrelPhase : rel.1 = if rel.2 = 0 then .idle else .release :=
    (envFallTo_phase hzero ..).trans (if_congr (BitVec.toNat_inj (y := 0)) rfl rfl)
  exact ⟨(envAttack_level ..).trans (envRise_eq ..), envAttack_phase ..,
    (envFallTo_level htarget ..).trans (envFall_eq ..), envFallTo_phase htarget ..,
    hrelLevel, hrelPhase, rfl, rfl⟩

end Sys2Proof.Machine
end

section
/-! The mixer, the tick and the sample counter (43_mixer.md R155 to R162). -/

namespace Sys2Proof.Machine

/-! ### The pairwise mix (R158) -/

/-- The clamped sum is in the range of a byte, so it is stored whole. -/
theorem mix_toNat (a b : Byte) :
    ((mix a b).toNat : Int) = min 255 (max 0 ((a.toNat : Int) + b.toNat - 127)) := by
  rw [mix, clamp, BitVec.toNat_ofInt]
  omega

theorem mix_comm (a b : Byte) : mix a b = mix b a := by
  rw [mix, mix, Int.add_comm]

theorem mix_127 (a : Byte) : mix a 127 = a := by
  have hmix := mix_toNat a 127
  have h127 : (127 : Byte).toNat = 127 := rfl
  exact BitVec.eq_of_toNat_eq (by omega)

/-- Silence is 128, one above the identity element of the mix. -/
theorem mix_128_toNat {a : Byte} (ha : a.toNat ≤ 254) : (mix a 128).toNat = a.toNat + 1 := by
  have hmix := mix_toNat a 128
  have h128 : (128 : Byte).toNat = 128 := rfl
  omega

/-! ### The running mix of a tick (R156, R157, R159, R160) -/

/-- What a voice contributes to a tick: its sample, unless it is idle. -/
def Voice.contribution (v : Voice) : Option Byte := if v.ampPh = .idle then none else some v.render.2

theorem State.contributions_eq (s : State) :
    s.contributions = (s.channels.list.flatMap Channel.allocated).filterMap Voice.contribution := rfl

theorem Voice.tick_snd (v : Voice) (acc : Option Byte) :
    (v.tick acc).2 = v.contribution.toList.foldl (fun acc x => some (mixInto acc x)) acc := by
  by_cases hidle : v.ampPh = .idle
  · have hreleased := v.released_iff.mpr hidle
    simp only [Voice.tick, Voice.contribution, if_pos hidle, if_pos hreleased, Option.toList_none, List.foldl_nil]
  · have hreleased := mt v.released_iff.mp hidle
    simp only [Voice.tick, Voice.contribution, if_neg hidle, if_neg hreleased, Option.toList_some, List.foldl_cons,
      List.foldl_nil]

theorem Channel.tick_snd (c : Channel) (acc : Option Byte) :
    (c.tick acc).2 = c.allocated.foldl (fun acc v => (v.tick acc).2) acc :=
  mapAccumFirst_snd ..

theorem State.tickVoices_snd (s : State) :
    s.tickVoices.2 = s.channels.list.foldl (fun acc c => (c.tick acc).2) none := by
  have hall : s.channels.list.take Config.NCH = s.channels.list :=
    List.take_of_length_le s.channels.length_eq.le
  rw [← hall]
  exact mapAccumFirst_snd ..

/-- The two nested loops of a tick are one fold over the contributions. -/
theorem State.tickVoices_snd_eq_foldl (s : State) :
    s.tickVoices.2 = s.contributions.foldl (fun acc x => some (mixInto acc x)) none := by
  simp only [State.tickVoices_snd, State.contributions_eq, List.filterMap_eq_flatMap_toList, List.foldl_flatMap,
    Channel.tick_snd, Voice.tick_snd]

/-- The first sample seeds the running mix, and each later one is mixed into it. -/
theorem foldl_mixInto_getD (xs : List Byte) :
    (xs.foldl (fun acc x => some (mixInto acc x)) none).getD 128 = mixdown xs := by
  cases xs with
  | nil => rfl
  | cons x xs => exact congrArg (Option.getD · 128) (List.foldl_hom some fun _ _ => rfl)

theorem State.tickSample_eq_mixdown (s : State) : s.tickSample = mixdown s.contributions := by
  rw [State.tickSample, State.tickVoices_snd_eq_foldl, foldl_mixInto_getD]

/-! ### The voices after a tick (R155, R161) -/

theorem State.tick_channel_get? (s : State) (n : Nat) :
    s.tick.channels.get? n = (s.channels.get? n).map fun c => c.mapAllocated Voice.ticked := by
  rw [State.tick_channels, State.tickVoices_fst]
  exact s.mapChannels_get? _ n

theorem Channel.ticked_voice_get? {c : Channel} {i : Nat} {v : Voice} (hv : c.voices.get? i = some v) :
    (c.mapAllocated Voice.ticked).voices.get? i =
      some (if i < c.alloc.toNat ∧ v.ampPh ≠ .idle then v.render.1.countdown else v) := by
  rw [Channel.mapAllocated, Bank.get?_mapFirst, hv, Option.map_some, Voice.ticked]
  by_cases hi : i < c.alloc.toNat <;> by_cases hidle : v.ampPh = .idle <;> simp [hi, hidle]

/-! ### Which instructions keep SAMPLE_COUNT (R162) -/

section
variable {i : Instr} {s t : State} {w : Word} {effect : State → State}

/-- A command keeps the counter if its effect does, for a rejection keeps it. -/
theorem command_sampleCount {checks : List (Bool × ErrCode)} (hcommand : exec i s = runCommand w checks effect s)
    (hexec : exec i s = .next t) (heffect : firstError checks = none → (effect s).sampleCount = s.sampleCount) :
    t.sampleCount = s.sampleCount := by
  obtain ⟨e, -, hrun⟩ | ⟨hnone, hrun⟩ := runCommand_cases w checks effect s
  · obtain rfl := Host.Outcome.next.inj ((hcommand.trans hrun).symm.trans hexec)
    exact s.raiseError_sampleCount e w
  · obtain rfl := Host.Outcome.next.inj ((hcommand.trans hrun).symm.trans hexec)
    exact heffect hnone

/-- A command with an unused bit set keeps the counter whatever its effect, for it is rejected. -/
theorem command_sampleCount_of_unused {unused : BitVec 28}
    (hcommand : exec i s = runCommand w [(unused != 0, .rsvd)] effect s) (hexec : exec i s = .next t)
    (hunused : unused ≠ 0) : t.sampleCount = s.sampleCount :=
  command_sampleCount hcommand hexec fun hnone => by
    rw [firstError_rsvd hunused] at hnone
    cases hnone

end

/-- Only a write of CMD runs a command; every other 32-bit write keeps the channels, SAMPLE_COUNT and LAST_SAMPLE. -/
theorem exec_wr32_frame {a : Addr} (ha : a ≠ cmdAddr) (d : Word) (s : State) :
    ∃ t, exec (.wr32 a d) s = .next t ∧ t = { s with
      dur := t.dur, errCode := t.errCode, errMore := t.errMore, errCmd := t.errCmd, tempo := t.tempo
      patchRam := t.patchRam, response := t.response } := by
  by_cases hf : busFault32 a = true
  · exact ⟨_, exec_wr32_busError hf d s, rfl⟩
  · have hmap := mt (busFault32_iff a).mpr hf
    by_cases hreg : a.toNat < 0x100
    · rw [exec_wr32_register hreg (by omega)]
      cases hr : regAt a with
      | cmd => exact absurd ((regAt_effects a).2.1 hr) ha
      | _ => exact ⟨_, rfl, rfl⟩
    · exact ⟨_, exec_wr32_patchRam (by omega) (by omega) (by omega) d s, rfl⟩

/-- An 8-bit write changes patch RAM at most. -/
theorem exec_wr8_frame (a : Addr) (d : Byte) (s : State) :
    ∃ t, exec (.wr8 a d) s = .next t ∧ t = { s with patchRam := t.patchRam, response := t.response } := by
  cases hf : busFault8 a with
  | true => exact ⟨_, exec_wr8_busError hf d s, rfl⟩
  | false => exact ⟨_, exec_wr8_patchRam hf d s, rfl⟩

theorem exec_keeps_sampleCount {i : Instr} {s t : State} (hwf : i.wf = true) (hexec : exec i s = .next t)
    (htick : i ≠ .tick) (hclear : i ≠ .clearCount 0) (hreset : i ≠ .engineReset 0) :
    t.sampleCount = s.sampleCount := by
  cases i with
  | nop => exact command_sampleCount (exec_nop ..) hexec fun _ => rfl
  | noteOn => exact command_sampleCount (exec_noteOn ..) hexec fun _ => rfl
  | noteOnT => exact command_sampleCount (exec_noteOnT ..) hexec fun _ => rfl
  | noteOff => exact command_sampleCount (exec_noteOff ..) hexec fun _ => rfl
  | allOff => exact command_sampleCount (exec_allOff ..) hexec fun _ => rfl
  | reservedOp7 => exact command_sampleCount (exec_reservedOp7 ..) hexec fun _ => rfl
  | reservedOp8F => exact command_sampleCount (exec_reservedOp8F ..) hexec fun _ => rfl
  | tick => exact absurd rfl htick
  | clearCount unused =>
    exact command_sampleCount_of_unused (exec_clearCount ..) hexec fun hunused => hclear (congrArg _ hunused)
  | engineReset unused =>
    exact command_sampleCount_of_unused (exec_engineReset ..) hexec fun hunused => hreset (congrArg _ hunused)
  | rd32 a =>
    obtain ⟨r, hr⟩ := exec_rd32_of_ne_outData (bne_iff_ne.mp hwf) s
    obtain rfl := Host.Outcome.next.inj ((hr s.response).symm.trans hexec)
    rfl
  | rd8 a =>
    obtain ⟨r, hr⟩ := exec_rd8_answers a s
    obtain rfl := Host.Outcome.next.inj ((hr s.response).symm.trans hexec)
    rfl
  | wr32 a d =>
    obtain ⟨t', hwrite, hframe⟩ := exec_wr32_frame (bne_iff_ne.mp hwf) d s
    obtain rfl := Host.Outcome.next.inj (hwrite.symm.trans hexec)
    rw [hframe]
  | wr8 a d =>
    obtain ⟨t', hwrite, hframe⟩ := exec_wr8_frame a d s
    obtain rfl := Host.Outcome.next.inj (hwrite.symm.trans hexec)
    rw [hframe]

/-! ### The obligations -/

/-- Settles O32: the counter is written by the tick and the two commands that clear it, and a rejection keeps it. -/
theorem sampleCountChangesOnlyBy : Obligations.SampleCountChangesOnlyBy := by
  intro i s t hwf hexec
  refine ⟨?tick, ?cleared, exec_keeps_sampleCount hwf hexec⟩
  case tick =>
    rintro rfl
    obtain rfl := Host.Outcome.next.inj hexec
    exact BitVec.toNat_add ..
  case cleared =>
    rintro (rfl | rfl)
    all_goals
      obtain rfl := Host.Outcome.next.inj hexec
      rfl

/-- Settles O35: the loops over channels and voices are a map of the voices and a fold of their contributions. -/
theorem tickRule : Obligations.TickRule := by
  intro s
  refine ⟨_, rfl, fun n c hc => ⟨c.mapAllocated Voice.ticked, ?_, rfl, fun i v => Channel.ticked_voice_get?⟩, ?_⟩
  · rw [State.respond_channels, State.tick_channel_get?, hc]
    rfl
  · rw [← s.tickSample_eq_mixdown]
    rfl

/-- Settles O36: the mix is symmetric in its sum, and 127 is subtracted from it. -/
theorem mixSaturates : Obligations.MixSaturates := fun a b =>
  ⟨mix_toNat a b, mix_comm a b, mix_127 a, mix_128_toNat⟩

end Sys2Proof.Machine
end

section
/-! The tables (44_tables.md R170 to R174): the sine by quadrants, the key increments and the routing of algorithms. -/

namespace Sys2Proof.Machine

/-- A number below 2^w is stored whole in w bits. -/
theorem toNat_ofNat_of_lt {w n : Nat} (h : n < 2 ^ w) : (BitVec.ofNat w n).toNat = n :=
  (BitVec.toNat_ofNat n w).trans (Nat.mod_eq_of_lt h)

/-! ### The quarter wave (R171) -/

theorem qsinTable_length : qsinTable.length = 256 := by decide +kernel

theorem qsin_eq_getElem {i : Nat} (hi : i < qsinTable.length) : qsin i = (qsinTable[i] : Nat) := by
  rw [qsin, List.getD_eq_getElem _ _ hi]

theorem qsinTable_sorted : qsinTable.SortedLE := by decide +kernel

theorem qsin_le_qsin {i j : Nat} (hij : i ≤ j) (hj : j < 256) : qsin i ≤ qsin j := by
  have hlen := qsinTable_length
  rw [qsin_eq_getElem (by omega), qsin_eq_getElem (by omega)]
  exact Int.ofNat_le.mpr (qsinTable_sorted.getElem_le_getElem_of_le hij)

/-- The quarter wave starts at its least entry. -/
theorem thirteen_le_qsin {i : Nat} (hi : i < 256) : 13 ≤ qsin i := qsin_le_qsin (Nat.zero_le i) hi

/-! ### The sine (R170) -/

/-- The first half turn runs the quarter wave forward and then backward. -/
theorem sin_eq_qsin {n : Nat} (hn : n < 512) : sin (BitVec.ofNat 10 n) = qsin (min n (511 - n)) := by
  have hnat : (BitVec.ofNat 10 n).toNat = n := toNat_ofNat_of_lt (by omega)
  simp only [sin, hnat]
  by_cases hq : n < 256
  · rw [Nat.div_eq_of_lt hq, Nat.mod_eq_of_lt hq, min_eq_left (by omega)]
    rfl
  · have hdiv : n / 256 = 1 := by omega
    rw [hdiv, min_eq_right (by omega)]
    exact congrArg qsin (by omega)

theorem sin_511_sub {n : Nat} (hn : n < 512) : sin (BitVec.ofNat 10 (511 - n)) = sin (BitVec.ofNat 10 n) := by
  rw [sin_eq_qsin hn, sin_eq_qsin (by omega), Nat.sub_sub_self (by omega), min_comm]

/-- Half a turn changes the quadrant by 2 and keeps the place in it. -/
theorem sin_add_512 {n : Nat} (hn : n < 512) : sin (BitVec.ofNat 10 (n + 512)) = -sin (BitVec.ofNat 10 n) := by
  have hnat : (BitVec.ofNat 10 n).toNat = n := toNat_ofNat_of_lt (by omega)
  have hturned : (BitVec.ofNat 10 (n + 512)).toNat = n + 256 * 2 := toNat_ofNat_of_lt (by omega)
  simp only [sin, hnat, hturned, Nat.add_mul_mod_self_left, Nat.add_mul_div_left n 2 (show 0 < 256 by decide)]
  have hq : n / 256 = 0 ∨ n / 256 = 1 := by omega
  rcases hq with hq | hq <;> rw [hq] <;> rfl

theorem sin_quadrants {r : Nat} (hr : r < 256) :
    sin (BitVec.ofNat 10 r) = qsin r ∧ sin (BitVec.ofNat 10 (511 - r)) = qsin r ∧
    sin (BitVec.ofNat 10 (512 + r)) = -qsin r ∧ sin (BitVec.ofNat 10 (1023 - r)) = -qsin r := by
  have hforward : sin (BitVec.ofNat 10 r) = qsin r := by rw [sin_eq_qsin (by omega), min_eq_left (by omega)]
  have hbackward : sin (BitVec.ofNat 10 (511 - r)) = qsin r := (sin_511_sub (by omega)).trans hforward
  refine ⟨hforward, hbackward, ?_, ?_⟩
  · rw [Nat.add_comm, sin_add_512 (by omega), hforward]
  · rw [show 1023 - r = 511 - r + 512 by omega, sin_add_512 (by omega), hbackward]

/-! ### The key increments (R174) -/

/-- `x` is 440 * 2^((k - 69) / 12) * 2^32 / 8000 rounded half up, in twelfth powers. -/
@[reducible] def IsKeyIncrement (k x : Nat) : Prop :=
  ((2 * x - 1) * 8000) ^ 12 * 2 ^ 69 ≤ (2 * 440 * 2 ^ 32) ^ 12 * 2 ^ k ∧
  (2 * 440 * 2 ^ 32) ^ 12 * 2 ^ k < ((2 * x + 1) * 8000) ^ 12 * 2 ^ 69

theorem keyIncTable_equalTempered : ∀ k, k < 128 → IsKeyIncrement k (keyIncTable.getD k 0) := by decide

theorem keyIncTable_lt : ∀ k, k < 128 → keyIncTable.getD k 0 < 2 ^ 33 := by decide

/-- Every entry of the table is stored whole. -/
theorem keyInc_toNat {k : Nat} (hk : k < 128) : (keyInc (BitVec.ofNat 7 k)).toNat = keyIncTable.getD k 0 := by
  rw [keyInc, toNat_ofNat_of_lt (w := 7) hk, toNat_ofNat_of_lt (keyIncTable_lt k hk)]

/-! ### The algorithms (R172, R173) -/

theorem algTable_carriers_ne_nil : ∀ row ∈ algTable, row.carriers ≠ [] := by decide

/-- Algorithm `i + 1` selects entry `i` of the table. -/
theorem algTable_getElem?_eq_algRow {i : Nat} (hi : i < algTable.length) :
    algTable[i]? = some (algRow (BitVec.ofNat 4 (i + 1))) := by
  have hlen : algTable.length = 11 := rfl
  have hnum : (BitVec.ofNat 4 (i + 1)).toNat = i + 1 := toNat_ofNat_of_lt (by omega)
  rw [algRow, hnum, List.getElem?_eq_getElem hi]
  exact congrArg some (List.getD_eq_getElem _ _ hi).symm

/-! ### The obligations -/

/-- Settles O55: the second half turn negates the first, whose second quarter is the first reversed. -/
theorem sineSymmetries : Obligations.SineSymmetries := by
  refine ⟨qsinTable_length, fun r hr => sin_quadrants hr, fun n hn => ?_⟩
  refine ⟨sin_add_512 hn, sin_511_sub hn, ?_, (sin_range _).2, fun hrise => ?_⟩
  · rw [sin_eq_qsin hn]
    exact thirteen_le_qsin (by omega)
  · rw [sin_eq_qsin hn, sin_eq_qsin (by omega)]
    exact qsin_le_qsin (by omega) (by omega)

/-- Settles O56: an increment is an entry of the table, and each entry is checked against its key. -/
theorem keyIncrementsAreEqualTempered : Obligations.KeyIncrementsAreEqualTempered := by
  intro k hk x
  have hx : x = keyIncTable.getD k 0 := keyInc_toNat hk
  exact hx ▸ keyIncTable_equalTempered k hk

/-- Settles O57: an algorithm's row stands in the table, where every row has a carrier. -/
theorem algorithmTableConstraints : Obligations.AlgorithmTableConstraints := by
  refine ⟨rfl, fun n hpos hle => ?_⟩
  intro row
  obtain ⟨i, rfl⟩ := Nat.exists_eq_add_of_le' hpos
  have hrow : algTable[i]? = some row := algTable_getElem?_eq_algRow hle
  obtain ⟨hedges, hnodup, hcarriers⟩ := algRow_rises (BitVec.ofNat 4 (i + 1))
  exact ⟨hrow, hedges, hnodup, algTable_carriers_ne_nil row (List.mem_of_getElem? hrow), hcarriers⟩

end Sys2Proof.Machine
end

section
/-! The reset input (70_reset_and_hazards.md R215, R216), and what the host reads where no voice is allocated. -/

namespace Sys2Proof.Machine

/-! ### A state without an allocated voice -/

section
variable {s : State} (h : ∀ c ∈ s.channels.list, c.allocated = [])
include h

theorem State.allIdle_of_no_allocated : s.allIdle = true :=
  s.allIdle_iff.mpr fun c hc _ hv => absurd (h c hc ▸ hv) List.not_mem_nil

/-- AT_END and ALL_IDLE are both 1 (43_mixer.md R163, R164). -/
theorem State.statusWord_of_no_allocated : s.statusWord = 3 := by
  have hidle := State.allIdle_of_no_allocated h
  rw [State.statusWord, hidle, State.atEnd_of_allIdle hidle]
  rfl

theorem State.contributions_of_no_allocated : s.contributions = [] := by
  rw [State.contributions_eq, List.flatMap_eq_nil_iff.mpr h, List.filterMap_nil]

/-- Silence is 128 (43_mixer.md R160). -/
theorem State.tickSample_of_no_allocated : s.tickSample = 128 := by
  rw [State.tickSample_eq_mixdown, State.contributions_of_no_allocated h, mixdown]

end

/-! ### The reset input -/

theorem step_reset {s : State} {rest : List HostEvent} (h : s.pending = .reset :: rest) :
    step s = .next (State.hardReset { s with pending := rest }) := by
  rw [step, h]

theorem Channel.reset_allocated : Channel.reset.allocated = [] := rfl

theorem State.hardReset_no_allocated (s : State) : ∀ c ∈ s.hardReset.channels.list, c.allocated = [] := by
  intro c hc
  rw [Bank.mem_fill hc, Channel.reset_allocated]

/-- A read of STATUS has no effect, so only its answer changes the state. -/
theorem exec_rd32_status (s : State) :
    exec (.rd32 0x010#12) s = .next { s with response := .data32 s.statusWord } :=
  exec_rd32_register (by decide) (by decide) s

/-! ### The obligation -/

/-- Settles O7: the registers are those of the reset state, and no voice is left for STATUS or a tick to count. -/
theorem resetInputResets : Obligations.ResetInputResets := by
  intro s rest hpending
  have hnone := State.hardReset_no_allocated { s with pending := rest }
  refine ⟨_, step_reset hpending, rfl, rfl, rfl, rfl, rfl, rfl, rfl, rfl, ?channels, ?status, _, rfl, ?sample⟩
  case channels =>
    intro n c hc
    rw [State.reset_channel hc]
    exact ⟨rfl, fun i v hv => Bank.mem_fill (Bank.get?_mem hv)⟩
  case status =>
    rw [exec_rd32_status, State.statusWord_of_no_allocated hnone]
  case sample =>
    rw [State.respond_response, State.tickSample_of_no_allocated hnone]
    rfl

end Sys2Proof.Machine
end

section
/-! The encoder and the decoder as inverses (30_encoding.md R70 to R76, R81). -/

namespace Sys2Proof

/-! ### A command word from its own fields (R71) -/

section
variable {w : Word}

theorem opWord_fields (op : BitVec 4) (hop : (w.extractLsb' 0 4).toNat = op.toNat) :
    opWord op (w.extractLsb' 4 28) = w := by
  rw [opcode_toNat] at hop
  apply BitVec.eq_of_toNat_eq
  rw [opWord_toNat, toNat_field]
  omega

theorem noteWord_fields (op : BitVec 4) (hop : (w.extractLsb' 0 4).toNat = op.toNat) :
    noteWord op (w.extractLsb' 4 4) (w.extractLsb' 8 4) (w.extractLsb' 12 7) (w.extractLsb' 19 7)
      (w.extractLsb' 26 6) = w := by
  rw [opcode_toNat] at hop
  apply BitVec.eq_of_toNat_eq
  simp only [noteWord_toNat, toNat_field]
  omega

theorem offWord_fields (hop : (w.extractLsb' 0 4).toNat = 3) :
    offWord (w.extractLsb' 4 4) (w.extractLsb' 8 24) = w := by
  rw [opcode_toNat] at hop
  apply BitVec.eq_of_toNat_eq
  simp only [offWord_toNat, toNat_field]
  omega

theorem reservedWord_fields (hop : 8 ≤ (w.extractLsb' 0 4).toNat) :
    reservedWord (w.extractLsb' 0 3) (w.extractLsb' 4 28) = w := by
  rw [opcode_toNat] at hop
  apply BitVec.eq_of_toNat_eq
  simp only [reservedWord_toNat, toNat_field]
  omega

end

/-- Every word decodes to a command, and it is that command's word. -/
theorem decodeCommand_inverse (w : Word) :
    (decodeCommand w).wf = true ∧ encode (decodeCommand w) = .write32 cmdAddr w := by
  unfold decodeCommand
  generalize hop : (w.extractLsb' 0 4).toNat = opcode
  match opcode with
  | 0 => exact ⟨rfl, congrArg _ (opWord_fields 0 hop)⟩
  | 1 => exact ⟨rfl, congrArg _ (noteWord_fields 1 hop)⟩
  | 2 => exact ⟨rfl, congrArg _ (noteWord_fields 2 hop)⟩
  | 3 => exact ⟨rfl, congrArg _ (offWord_fields hop)⟩
  | 4 => exact ⟨rfl, congrArg _ (opWord_fields 4 hop)⟩
  | 5 => exact ⟨rfl, congrArg _ (opWord_fields 5 hop)⟩
  | 6 => exact ⟨rfl, congrArg _ (opWord_fields 6 hop)⟩
  | 7 => exact ⟨rfl, congrArg _ (opWord_fields 7 hop)⟩
  | n + 8 => exact ⟨rfl, congrArg _ (reservedWord_fields (by omega))⟩

theorem decodeAccess_read32 {addr : Addr} (h : addr ≠ outDataAddr) : decodeAccess (.read32 addr) = .rd32 addr :=
  if_neg h

theorem decodeAccess_write32 {addr : Addr} (h : addr ≠ cmdAddr) (data : Word) :
    decodeAccess (.write32 addr data) = .wr32 addr data :=
  if_neg h

/-! ### The obligations -/

/-- Settles O1: each command word decodes by its fields, and the two rows that share an address with another keep
clear of it. -/
theorem encodeThenDecode : Obligations.EncodeThenDecode := by
  intro i hwf
  cases i with
  | nop unused =>
    obtain ⟨hnop, -⟩ := decodeCommand_opWord unused
    exact hnop
  | noteOn ch slot key vel rsv => exact (decodeCommand_noteWord ch slot key vel rsv).1
  | noteOnT ch slot key vel rsv => exact (decodeCommand_noteWord ch slot key vel rsv).2
  | noteOff ch unused => exact decodeCommand_offWord ch unused
  | allOff unused =>
    obtain ⟨-, hallOff, -⟩ := decodeCommand_opWord unused
    exact hallOff
  | clearCount unused =>
    obtain ⟨-, -, hclearCount, -⟩ := decodeCommand_opWord unused
    exact hclearCount
  | engineReset unused =>
    obtain ⟨-, -, -, hengineReset, -⟩ := decodeCommand_opWord unused
    exact hengineReset
  | reservedOp7 rest =>
    obtain ⟨-, -, -, -, hop7⟩ := decodeCommand_opWord rest
    exact hop7
  | reservedOp8F op rest => exact decodeCommand_reservedWord op rest
  | tick => rfl
  | rd32 addr => exact decodeAccess_read32 (bne_iff_ne.mp hwf)
  | wr32 addr data => exact decodeAccess_write32 (bne_iff_ne.mp hwf) data
  | rd8 addr => rfl
  | wr8 addr data => rfl

/-- Settles O2: a write of CMD is a command, a read of OUT_DATA is TICK, and every other access names itself. -/
theorem decodeThenEncode : Obligations.DecodeThenEncode := by
  intro a
  cases a with
  | read32 addr =>
    by_cases haddr : addr = outDataAddr
    · subst haddr
      exact ⟨rfl, rfl⟩
    · rw [decodeAccess_read32 haddr]
      exact ⟨bne_iff_ne.mpr haddr, rfl⟩
  | write32 addr data =>
    by_cases haddr : addr = cmdAddr
    · subst haddr
      exact decodeCommand_inverse data
    · rw [decodeAccess_write32 haddr]
      exact ⟨bne_iff_ne.mpr haddr, rfl⟩
  | read8 addr => exact ⟨rfl, rfl⟩
  | write8 addr data => exact ⟨rfl, rfl⟩

/-- Settles O4: the decoder computes on a word that is given. -/
theorem specWordsDecode : Obligations.SpecWordsDecode := ⟨rfl, rfl, rfl, rfl, rfl, rfl, rfl⟩

end Sys2Proof
end

section
/-! What an instruction can do to the state (40_commands.md R90 to R98, 20_memory.md R50 to R60), said once for every
instruction, and what follows from it for each register. -/

namespace Sys2Proof.Machine

/-! ### Every effect of an instruction -/

/-- `Effect i s u`: apart from the answer on the bus, executing `i` in `s` may leave `u`. -/
inductive Effect (i : Instr) (s : State) : State → Prop where
  /-- A read, an ignored write, a BusError, or NOP. -/
  | kept : Effect i s s
  /-- A rejected command (60_exceptions.md R198). -/
  | rejected (e : ErrCode) (w : Word) : Effect i s (s.raiseError e w)
  /-- A note started from a legal slot (40_commands.md R92, R93). -/
  | noteStarted {ch slot : BitVec 4} {key vel : BitVec 7} {d : Word}
      (hi : i = .noteOn ch slot key vel 0 ∨ i = .noteOnT ch slot key vel 0)
      (hlegal : patchLegal (s.patchByte slot.toNat) = true) : Effect i s (s.startNote ch slot key vel d)
  | channelOff {ch : BitVec 4} (hi : i = .noteOff ch 0) : Effect i s (s.modifyChannel ch.toNat Channel.off)
  | allOff (hi : i = .allOff 0) : Effect i s (s.mapChannels Channel.off)
  | countCleared (hi : i = .clearCount 0) : Effect i s { s with sampleCount := 0 }
  | engineReset (hi : i = .engineReset 0) : Effect i s s.engineReset
  | ticked (hi : i = .tick) : Effect i s s.tick
  | durStored {d : Word} (hi : i = .wr32 0x00C d) : Effect i s { s with dur := d }
  | tempoStored {d : Word} (hi : i = .wr32 0x01C d) : Effect i s { s with tempo := d.setWidth 16 }
  | errorCleared {d : Word} (hi : i = .wr32 0x014 d) : Effect i s s.clearError
  /-- Bytes written to patch RAM (20_memory.md R55, R56). -/
  | bytesStored (hi : (∃ a d, i = .wr32 a d) ∨ ∃ a d, i = .wr8 a d) {a n : Nat} (v : Nat) (hlo : 0x400 ≤ a)
      (hhi : a + n ≤ 0x800) : Effect i s { s with patchRam := s.patchRam.writeBytes a n v }

/-- A command is rejected, or its checks have passed and it has its effect. -/
theorem effect_of_command {i : Instr} {s : State} {w : Word} {checks : List (Bool × ErrCode)}
    {effect : State → State} (hcommand : exec i s = runCommand w checks effect s)
    (heffect : firstError checks = none → Effect i s (effect s)) :
    ∃ u r, exec i s = .next (u.respond r) ∧ Effect i s u := by
  obtain ⟨e, -, hrun⟩ | ⟨hnone, hrun⟩ := runCommand_cases w checks effect s
  · exact ⟨_, _, hcommand.trans hrun, .rejected e w⟩
  · exact ⟨_, _, hcommand.trans hrun, heffect hnone⟩

/-- A command that has passed its checks has 0 in its reserved bits, which each checks. -/
theorem eq_zero_of_firstError_none {checks : List (Bool × ErrCode)} {k : Nat} {x : BitVec k}
    (hnone : firstError checks = none) (hmem : (x != 0, .rsvd) ∈ checks) : x = 0 :=
  bne_eq_false_iff_eq.mp ((firstError_none_iff checks).mp hnone _ hmem)

/-- A command that has passed the check of its slot starts from a legal one. -/
theorem patchLegal_of_firstError_none {checks : List (Bool × ErrCode)} {s : State} {slot : Nat}
    (hnone : firstError checks = none) (hmem : (!patchLegal (s.patchByte slot), .patchVal) ∈ checks) :
    patchLegal (s.patchByte slot) = true := by
  have hpassed := (firstError_none_iff checks).mp hnone _ hmem
  rwa [Bool.not_eq_false'] at hpassed

theorem effect_of_wr32 {a : Addr} (ha : a ≠ cmdAddr) (d : Word) (s : State) :
    ∃ u r, exec (.wr32 a d) s = .next (u.respond r) ∧ Effect (.wr32 a d) s u := by
  by_cases hf : busFault32 a = true
  · exact ⟨s, _, exec_wr32_busError hf d s, .kept⟩
  · have hmap := mt (busFault32_iff a).mpr hf
    by_cases hreg : a.toNat < 0x100
    · obtain ⟨-, hcmd, hdur, herr, htempo⟩ := regAt_effects a
      rw [exec_wr32_register hreg (by omega)]
      cases hr : regAt a with
      | cmd => exact absurd (hcmd hr) ha
      | dur => exact ⟨_, _, rfl, .durStored (by rw [hdur hr])⟩
      | err => exact ⟨_, _, rfl, .errorCleared (by rw [herr hr])⟩
      | tempo => exact ⟨_, _, rfl, .tempoStored (by rw [htempo hr])⟩
      | _ => exact ⟨_, _, rfl, .kept⟩
    · exact ⟨{ s with patchRam := s.patchRam.writeBytes a.toNat 4 d.toNat }, .done,
        exec_wr32_patchRam (by omega) (by omega) (by omega) d s,
        .bytesStored (.inl ⟨a, d, rfl⟩) _ (by omega) (by omega)⟩

theorem effect_of_wr8 (a : Addr) (d : Byte) (s : State) :
    ∃ u r, exec (.wr8 a d) s = .next (u.respond r) ∧ Effect (.wr8 a d) s u := by
  cases hf : busFault8 a with
  | true => exact ⟨s, _, exec_wr8_busError hf d s, .kept⟩
  | false =>
    have hmap := mt (busFault8_iff a).mpr (Bool.eq_false_iff.mp hf)
    exact ⟨{ s with patchRam := s.patchRam.writeBytes a.toNat 1 d.toNat }, .done, exec_wr8_patchRam hf d s,
      .bytesStored (.inr ⟨a, d, rfl⟩) _ (by omega) (by omega)⟩

/-- Every instruction is answered, with one of its effects. -/
theorem exec_effect {i : Instr} (hwf : i.wf = true) (s : State) :
    ∃ u r, exec i s = .next (u.respond r) ∧ Effect i s u := by
  cases i with
  | nop unused => exact effect_of_command (exec_nop ..) fun _ => .kept
  | noteOn ch slot key vel rsv =>
    refine effect_of_command (exec_noteOn ..) fun hnone => ?_
    have hrsv : rsv = 0 := eq_zero_of_firstError_none hnone (by simp [State.noteOnChecks])
    exact .noteStarted (.inl (by rw [hrsv])) (patchLegal_of_firstError_none hnone (by simp [State.noteOnChecks]))
  | noteOnT ch slot key vel rsv =>
    refine effect_of_command (exec_noteOnT ..) fun hnone => ?_
    have hrsv : rsv = 0 := eq_zero_of_firstError_none hnone (by simp [State.noteOnTChecks])
    exact .noteStarted (.inr (by rw [hrsv])) (patchLegal_of_firstError_none hnone (by simp [State.noteOnTChecks]))
  | noteOff ch unused =>
    refine effect_of_command (exec_noteOff ..) fun hnone => .channelOff ?_
    rw [eq_zero_of_firstError_none hnone List.mem_cons_self]
  | allOff unused =>
    refine effect_of_command (exec_allOff ..) fun hnone => .allOff ?_
    rw [eq_zero_of_firstError_none hnone (List.mem_singleton_self _)]
  | clearCount unused =>
    refine effect_of_command (exec_clearCount ..) fun hnone => .countCleared ?_
    rw [eq_zero_of_firstError_none hnone (List.mem_singleton_self _)]
  | engineReset unused =>
    refine effect_of_command (exec_engineReset ..) fun hnone => .engineReset ?_
    rw [eq_zero_of_firstError_none hnone (List.mem_singleton_self _)]
  | reservedOp7 rest => exact effect_of_command (exec_reservedOp7 ..) fun _ => .kept
  | reservedOp8F op rest => exact effect_of_command (exec_reservedOp8F ..) fun _ => .kept
  | tick => exact ⟨_, _, rfl, .ticked rfl⟩
  | rd32 a =>
    obtain ⟨r, hr⟩ := exec_rd32_of_ne_outData (bne_iff_ne.mp hwf) s
    exact ⟨s, r, hr s.response, .kept⟩
  | wr32 a d => exact effect_of_wr32 (bne_iff_ne.mp hwf) d s
  | rd8 a =>
    obtain ⟨r, hr⟩ := exec_rd8_answers a s
    exact ⟨s, r, hr s.response, .kept⟩
  | wr8 a d => exact effect_of_wr8 a d s

/-- What an instruction has done is one of its effects, and the answer. -/
theorem effect_of_exec {i : Instr} {s t : State} (hwf : i.wf = true) (hexec : exec i s = .next t) :
    ∃ u r, t = u.respond r ∧ Effect i s u := by
  obtain ⟨u, r, hnext, heffect⟩ := exec_effect hwf s
  exact ⟨u, r, Host.Outcome.next.inj (hexec.symm.trans hnext), heffect⟩

/-- The terms that are second names run as the instruction they rename (log 15). -/
theorem wf_or_renames (i : Instr) : i.wf = true ∨ (i = .rd32 0x024 ∧ ∀ s, exec i s = exec .tick s) ∨
    ∃ w, i = .wr32 0x008 w ∧ ∀ s, exec i s = exec (decodeCommand w) s := by
  cases i with
  | rd32 a =>
    by_cases ha : a = outDataAddr
    · subst ha
      exact .inr (.inl ⟨rfl, exec_rd32_register (by decide) (by decide)⟩)
    · exact .inl (bne_iff_ne.mpr ha)
  | wr32 a d =>
    by_cases ha : a = cmdAddr
    · subst ha
      refine .inr (.inr ⟨d, rfl, fun s => ?_⟩)
      obtain ⟨hwrite, -⟩ := cmdWriteRunsTheCommand s d
      exact hwrite
    · exact .inl (bne_iff_ne.mpr ha)
  | _ => exact .inl rfl

/-! ### What each effect keeps -/

section
variable {i : Instr} {s u : State} (h : Effect i s u)
include h

/-- No instruction touches what the host has still to have served. -/
theorem Effect.pending_eq : u.pending = s.pending := by
  cases h with
  | rejected e w => exact s.raiseError_pending e w
  | _ => rfl

theorem Effect.patchRam_eq (hwr32 : ∀ a d, i ≠ .wr32 a d) (hwr8 : ∀ a d, i ≠ .wr8 a d) :
    u.patchRam = s.patchRam := by
  cases h with
  | rejected e w => exact s.raiseError_patchRam e w
  | bytesStored hi =>
    obtain ⟨a, d, hi⟩ | ⟨a, d, hi⟩ := hi
    · exact absurd hi (hwr32 a d)
    · exact absurd hi (hwr8 a d)
  | _ => rfl

theorem Effect.dur_eq (hwrite : ∀ d, i ≠ .wr32 0x00C d) : u.dur = s.dur := by
  cases h with
  | rejected e w => exact s.raiseError_dur e w
  | durStored hi => exact absurd hi (hwrite _)
  | _ => rfl

theorem Effect.tempo_eq (hwrite : ∀ d, i ≠ .wr32 0x01C d) : u.tempo = s.tempo := by
  cases h with
  | rejected e w => exact s.raiseError_tempo e w
  | tempoStored hi => exact absurd hi (hwrite _)
  | _ => rfl

/-- With an error recorded, a later one only sets MORE (60_exceptions.md R198). -/
theorem Effect.errorRecord_kept (herr : s.errCode ≠ 0) (hwrite : ∀ d, i ≠ .wr32 0x014 d)
    (hreset : i ≠ .engineReset 0) :
    u.errCode = s.errCode ∧ u.errCmd = s.errCmd ∧ (s.errMore = true → u.errMore = true) := by
  cases h with
  | rejected e w =>
    rw [State.raiseError, if_neg herr]
    exact ⟨rfl, rfl, fun _ => rfl⟩
  | engineReset hi => exact absurd hi hreset
  | errorCleared hi => exact absurd hi (hwrite _)
  | _ => exact ⟨rfl, rfl, id⟩

end

theorem Channel.startNote_alloc (c : Channel) (p : Snap) (key vel : BitVec 7) (d : Word) :
    (c.startNote p key vel d).alloc.toNat = c.alloc.toNat ∨
    (c.startNote p key vel d).alloc.toNat = c.alloc.toNat + 1 := by
  by_cases hroom : c.allocate.isSome
  · obtain ⟨-, -, -, -, -, -, halloc, -⟩ | ⟨-, -, halloc, -⟩ := c.startNote_started p key vel d hroom
    · exact .inl (congrArg _ halloc)
    · exact .inr halloc
  · rw [Channel.startNote, Option.not_isSome_iff_eq_none.mp hroom]
    exact .inl rfl

/-- But for ENGINE_RESET, an effect keeps the pool size of a channel, or is a started note that adds a voice
(10_state.md R34). -/
theorem Effect.alloc_cases {i : Instr} {s u : State} (h : Effect i s u) (hreset : i ≠ .engineReset 0)
    {n : Nat} {c c' : Channel} (hc : s.channels.get? n = some c) (hc' : u.channels.get? n = some c') :
    c'.alloc = c.alloc ∨
    ((∃ ch slot key vel, i = .noteOn ch slot key vel 0 ∨ i = .noteOnT ch slot key vel 0) ∧
      c'.alloc.toNat = c.alloc.toNat + 1) := by
  have hsame {b : Bank Channel Config.NCH} (hb : b = s.channels) (hget : b.get? n = some c') : c'.alloc = c.alloc := by
    rw [hb, hc] at hget
    rw [Option.some.inj hget]
  cases h with
  | rejected e w => exact .inl (hsame (s.raiseError_channels e w) hc')
  | noteStarted hi =>
    rw [State.startNote_channels, Bank.get?_modify, hc] at hc'
    split at hc' <;> obtain rfl := Option.some.inj hc'
    · obtain halloc | halloc := c.startNote_alloc ..
      · exact .inl (BitVec.eq_of_toNat_eq halloc)
      · exact .inr ⟨⟨_, _, _, _, hi⟩, halloc⟩
    · exact .inl rfl
  | channelOff =>
    rw [State.modifyChannel_channels, Bank.get?_modify, hc] at hc'
    split at hc' <;> obtain rfl := Option.some.inj hc' <;> exact .inl rfl
  | allOff =>
    rw [State.mapChannels_get?, hc] at hc'
    obtain rfl := Option.some.inj hc'
    exact .inl rfl
  | engineReset hi => exact absurd hi hreset
  | ticked =>
    rw [State.tick_channel_get?, hc] at hc'
    obtain rfl := Option.some.inj hc'
    exact .inl rfl
  | _ => exact .inl (hsame rfl hc')

/-! ### The obligations -/

/-- Settles O30: a store of bytes is the one effect on patch RAM; and TICK under its second name has none. -/
theorem patchRamChangesOnlyByHostWrites : Obligations.PatchRamChangesOnlyByHostWrites := by
  intro i s t hexec hwr32 hwr8
  obtain hwf | ⟨rfl, hrename⟩ | ⟨w, hi, -⟩ := wf_or_renames i
  · obtain ⟨u, r, rfl, heffect⟩ := effect_of_exec hwf hexec
    exact heffect.patchRam_eq hwr32 hwr8
  · obtain rfl := Host.Outcome.next.inj ((hrename s).symm.trans hexec)
    rfl
  · exact absurd hi (hwr32 0x008 w)

/-- Settles O31: each of the two is written by one effect; a second name runs TICK or a command, which is no write. -/
theorem durationAndTempoChangeOnlyByTheirWrites : Obligations.DurationAndTempoChangeOnlyByTheirWrites := by
  intro i s t hexec
  obtain hwf | ⟨rfl, hrename⟩ | ⟨w, rfl, hrename⟩ := wf_or_renames i
  · obtain ⟨u, r, rfl, heffect⟩ := effect_of_exec hwf hexec
    exact ⟨heffect.dur_eq, heffect.tempo_eq⟩
  · obtain rfl := Host.Outcome.next.inj ((hrename s).symm.trans hexec)
    exact ⟨fun _ => rfl, fun _ => rfl⟩
  · obtain ⟨hwf, hencode⟩ := decodeCommand_inverse w
    rw [hrename s] at hexec
    obtain ⟨u, r, rfl, heffect⟩ := effect_of_exec hwf hexec
    have hne {a : Addr} (ha : a ≠ cmdAddr) (d : Word) : decodeCommand w ≠ .wr32 a d := by
      intro hwrite
      rw [hwrite] at hencode
      exact ha (BusAccess.write32.inj hencode).1
    exact ⟨fun _ => heffect.dur_eq (hne (by decide)), fun _ => heffect.tempo_eq (hne (by decide))⟩

/-- Settles O33: ENGINE_RESET empties every pool, and of the other effects only a started note touches one. -/
theorem poolsOnlyGrow : Obligations.PoolsOnlyGrow := by
  intro i s t n c c' hwf hexec hc hc'
  by_cases hreset : i = .engineReset 0
  · subst hreset
    obtain rfl := Host.Outcome.next.inj (((exec_engineReset ..).trans (runCommand_runs rfl ..)).symm.trans hexec)
    obtain rfl : c' = Channel.reset := Bank.mem_fill (Bank.get?_mem hc')
    exact ⟨fun _ => rfl, fun h => absurd rfl h, fun h => absurd h (Nat.not_lt_zero _)⟩
  · obtain ⟨u, r, rfl, heffect⟩ := effect_of_exec hwf hexec
    refine ⟨fun h => absurd h hreset, ?_⟩
    obtain halloc | ⟨hnote, halloc⟩ := heffect.alloc_cases hreset hc hc'
    · rw [halloc]
      exact ⟨fun _ => le_rfl, fun h => absurd h (lt_irrefl _)⟩
    · exact ⟨fun _ => by omega, fun _ => ⟨hnote, halloc⟩⟩

/-- Settles O34: past the first error a rejection sets MORE, and the two effects that clear the record are excluded. -/
theorem firstErrorIsKept : Obligations.FirstErrorIsKept := by
  intro i s t hwf hexec herr hwrite hreset
  obtain ⟨u, r, rfl, heffect⟩ := effect_of_exec hwf hexec
  exact heffect.errorRecord_kept herr hwrite hreset

end Sys2Proof.Machine
end

section
/-! The step (00_scope.md R8, 20_memory.md R62): the oldest event served, and every access answered. -/

namespace Sys2Proof.Machine

/-! ### The step by the oldest event -/

theorem step_idle {s : State} (h : s.pending = []) : step s = .next s := by rw [step, h]

theorem step_access {s : State} {a : BusAccess} {rest : List HostEvent} (h : s.pending = .access a :: rest) :
    step s = exec (decodeAccess a) { s with pending := rest } := by
  rw [step, h]

theorem step_overlap {s : State} {a b : BusAccess} {rest : List HostEvent} (h : s.pending = .overlap a b :: rest) :
    step s = .fault .overlappingAccess := by
  rw [step, h]

theorem decodeAccess_wf (a : BusAccess) : (decodeAccess a).wf = true := (decodeThenEncode a).1

/-- An access placed in front of the list is the one the next step serves. -/
theorem step_withFetchWord {nbits w : Nat} {a : BusAccess} (h : tableAccess nbits w = .ok a) (s : State) :
    step (s.withFetchWord nbits w) = exec (decodeAccess a) s := by
  have hplaced : s.withFetchWord nbits w = { s with pending := .access a :: s.pending } := by
    rw [State.withFetchWord, h]
  rw [hplaced, step_access rfl]

/-! ### The obligations -/

/-- Settles O6: the decoded access is well formed, so it is answered, and no effect touches the host's list. -/
theorem everyAccessIsServed : Obligations.EveryAccessIsServed := by
  intro s a rest hpending
  obtain ⟨u, r, hnext, heffect⟩ := exec_effect (decodeAccess_wf a) { s with pending := rest }
  exact ⟨_, (step_access hpending).trans hnext, heffect.pending_eq⟩

/-- Settles O5: the list's head is served from the state without it. -/
theorem stepRunsTheDecodedAccess : Obligations.StepRunsTheDecodedAccess :=
  ⟨fun _ _ _ => step_access, fun s _ hw => step_withFetchWord ((if_pos rfl).trans (if_pos hw)) s,
    step_withFetchWord (a := .read32 outDataAddr) rfl⟩

end Sys2Proof.Machine
end

section
/-! The invariant of the state (10_state.md R45): it holds at reset, and every effect of an instruction keeps it. -/

namespace Sys2Proof.Machine

/-! ### Banks, channels and the error record -/

/-- Where each entry is changed by `f` or kept, a property that `f` keeps still holds of every entry. -/
theorem Bank.forall_of_changed {α : Type} {n : Nat} {P : α → Prop} {b b' : Bank α n} {f : α → α}
    (hchange : ∀ j, b'.get? j = (b.get? j).map f ∨ b'.get? j = b.get? j) (hb : ∀ x ∈ b.list, P x)
    (hf : ∀ x, P x → P (f x)) : ∀ x ∈ b'.list, P x := by
  intro x hx
  obtain ⟨j, hj⟩ := List.mem_iff_getElem?.mp hx
  obtain hchanged | hkept := hchange j
  · obtain ⟨y, hy, rfl⟩ := Option.map_eq_some_iff.mp (hchanged.symm.trans hj)
    exact hf y (hb y (Bank.get?_mem hy))
  · exact hb x (Bank.get?_mem (hkept.symm.trans hj))

section
variable {α : Type} {n : Nat} {P : α → Prop} {b : Bank α n} {f : α → α} (hb : ∀ x ∈ b.list, P x)
  (hf : ∀ x, P x → P (f x))
include hb hf

theorem Bank.forall_modify (i : Nat) : ∀ x ∈ (b.modify i f).list, P x :=
  Bank.forall_of_changed (fun j => b.get?_modify i j f ▸ ite_eq_or_eq ..) hb hf

theorem Bank.forall_mapFirst (k : Nat) : ∀ x ∈ (b.mapFirst f k).list, P x :=
  Bank.forall_of_changed (fun j => b.get?_mapFirst f k j ▸ ite_eq_or_eq ..) hb hf

end

theorem Channel.reset_inv : Channel.reset.Inv :=
  ⟨Nat.zero_le _, fun _ hv => absurd (Channel.reset_allocated ▸ hv) List.not_mem_nil,
    fun _ hv => Bank.mem_fill (List.mem_of_mem_drop hv)⟩

theorem Channel.off_inv {c : Channel} (h : c.Inv) : c.off.Inv := Channel.mapAllocated_inv (fun _ => Voice.off_inv) h

theorem State.channels_inv_of_fill {b : Bank Channel Config.NCH} (hb : b = Bank.fill Config.NCH Channel.reset) :
    ∀ c ∈ b.list, c.Inv := by
  intro c hc
  rw [hb] at hc
  rw [Bank.mem_fill hc]
  exact Channel.reset_inv

theorem ErrCode.code_range (e : ErrCode) : e.code.toNat ≤ 8 ∧ e.code ≠ 0 := by cases e <;> decide

/-- A rejection records an error, or keeps the one recorded (60_exceptions.md R198). -/
theorem State.raiseError_errorRecordInv {s : State} (h : s.ErrorRecordInv) (e : ErrCode) (w : Word) :
    (s.raiseError e w).ErrorRecordInv := by
  obtain ⟨hrange, hne⟩ := e.code_range
  unfold State.raiseError
  split
  case isTrue => exact ⟨hrange, fun hzero => absurd hzero hne⟩
  case isFalse herr => exact ⟨h.1, fun hzero => absurd hzero herr⟩

theorem State.clear_errorRecordInv {s : State} (hcode : s.errCode = 0) (hmore : s.errMore = false)
    (hcmd : s.errCmd = 0) : s.ErrorRecordInv :=
  ⟨by rw [hcode]; decide, fun _ => ⟨hmore, hcmd⟩⟩

/-! ### Effects and the reset input -/

/-- Each effect keeps the invariant: those on voices by the invariants of a voice and a channel, a rejection by that of
the error record, and a store by the canonical form. -/
theorem Effect.inv {i : Instr} {s u : State} (h : Effect i s u) (hs : s.Inv) : u.Inv := by
  obtain ⟨hchannels, herror, hram⟩ := hs
  cases h with
  | rejected e w =>
    refine ⟨?_, State.raiseError_errorRecordInv herror e w, ?_⟩
    · rwa [State.raiseError_channels]
    · rwa [State.raiseError_patchRam]
  | noteStarted hi hlegal =>
    refine ⟨Bank.forall_modify hchannels (fun c hc => ?_) _, herror, hram⟩
    exact Channel.startNote_inv hc (decodePatch_inRange hlegal) ..
  | channelOff => exact ⟨Bank.forall_modify hchannels (fun _ => Channel.off_inv) _, herror, hram⟩
  | allOff => exact ⟨Bank.forall_mapFirst hchannels (fun _ => Channel.off_inv) _, herror, hram⟩
  | engineReset => exact ⟨State.channels_inv_of_fill rfl, State.clear_errorRecordInv rfl rfl rfl, hram⟩
  | ticked =>
    refine ⟨?_, herror, hram⟩
    rw [State.tick_channels, State.tickVoices_fst]
    exact Bank.forall_mapFirst hchannels (fun _ => Channel.mapAllocated_inv fun _ => Voice.ticked_inv) _
  | errorCleared => exact ⟨hchannels, State.clear_errorRecordInv rfl rfl rfl, hram⟩
  | bytesStored hi v hlo hhi => exact ⟨hchannels, herror, Memory.wf_writeBytes hram v hlo hhi⟩
  | kept => exact ⟨hchannels, herror, hram⟩
  | countCleared => exact ⟨hchannels, herror, hram⟩
  | durStored => exact ⟨hchannels, herror, hram⟩
  | tempoStored => exact ⟨hchannels, herror, hram⟩

theorem State.hardReset_inv {s : State} (hs : s.Inv) : s.hardReset.Inv := by
  obtain ⟨-, -, hram⟩ := hs
  exact ⟨State.channels_inv_of_fill rfl, State.clear_errorRecordInv rfl rfl rfl, hram⟩

/-! ### The obligations -/

/-- Settles O59: every event keeps the invariant, an access by the effect of the instruction it decodes to. -/
theorem stepKeepsTheInvariant : Obligations.StepKeepsTheInvariant := by
  intro s t hs hstep
  cases hpending : s.pending with
  | nil =>
    rw [step_idle hpending] at hstep
    exact Host.Outcome.next.inj hstep ▸ hs
  | cons event rest =>
    have hserved : ({ s with pending := rest } : State).Inv := hs
    cases event with
    | access a =>
      rw [step_access hpending] at hstep
      obtain ⟨u, r, rfl, heffect⟩ := effect_of_exec (decodeAccess_wf a) hstep
      exact heffect.inv hserved
    | reset =>
      rw [step_reset hpending] at hstep
      exact Host.Outcome.next.inj hstep ▸ State.hardReset_inv hserved
    | overlap a b =>
      rw [step_overlap hpending] at hstep
      cases hstep

/-- Settles O58: at reset no voice is allocated, no error is recorded and patch RAM lists nothing. -/
theorem resetMeetsTheInvariant : Obligations.ResetMeetsTheInvariant :=
  ⟨State.channels_inv_of_fill rfl, State.clear_errorRecordInv rfl rfl rfl, rfl⟩

end Sys2Proof.Machine
end

section
/-! Ticks of one voice in a row (43_mixer.md R161, 42_envelopes.md R147 to R150): a note held for its duration, and its
release tail. -/

namespace Sys2Proof.Machine

/-! ### A held voice -/

/-- A voice that sounds and is not in its release tail. -/
def Voice.Held (v : Voice) : Prop := v.ampPh ≠ .release ∧ v.ampPh ≠ .idle

theorem Voice.ticked_of_sounding {v : Voice} (h : v.ampPh ≠ .idle) : v.ticked = v.render.1.countdown :=
  if_neg (mt v.released_iff.mp h)

/-- A tick alone neither releases a held voice nor makes it idle (42_envelopes.md R147 to R149). -/
theorem Voice.Held.render {v : Voice} (h : v.Held) : v.render.1.Held := by
  obtain ⟨hrelease, hidle⟩ := h
  obtain ⟨htoRelease, htoIdle⟩ := ampEnvStep_phase v.snap v.ampPh v.ampE
  rw [Voice.Held, Voice.render_ampPh]
  exact ⟨mt htoRelease hrelease, fun h => (htoIdle h).elim hrelease hidle⟩

theorem EnvPhase.released_of_ne_idle {ph : EnvPhase} (h : ph ≠ .idle) : ph.released = .release := by
  cases ph with
  | idle => exact absurd rfl h
  | _ => rfl

section
variable (v : Voice)

theorem Voice.countdown_stands (h : v.dur = 0 ∨ v.dur = indefinite) : v.countdown = v := by
  obtain ⟨-, hstands⟩ | ⟨h0, hindef, -⟩ | ⟨h1, -⟩ := v.countdown_cases
  · exact hstands
  · exact absurd h (not_or.mpr ⟨h0, hindef⟩)
  · rw [h1] at h
    exact absurd h (by decide)

theorem Voice.countdown_counts (h0 : v.dur ≠ 0) (h1 : v.dur ≠ 1) (hindef : v.dur ≠ indefinite) :
    v.countdown = { v with dur := v.dur - 1 } := by
  obtain ⟨h, -⟩ | ⟨-, -, -, hcounts⟩ | ⟨h, -⟩ := v.countdown_cases
  · exact absurd h (not_or.mpr ⟨h0, hindef⟩)
  · exact hcounts
  · exact absurd h h1

theorem Voice.countdown_ends (h : v.dur = 1) : v.countdown = { v.release with dur := 0 } := by
  obtain ⟨h', -⟩ | ⟨-, -, h1, -⟩ | ⟨-, hends⟩ := v.countdown_cases
  · rw [h] at h'
    exact absurd h' (by decide)
  · exact absurd h h1
  · exact hends

end

section
variable {v : Voice} (h : v.Held)
include h

theorem Voice.Held.ticked_indefinite (hdur : v.dur = indefinite) : v.ticked.Held ∧ v.ticked.dur = indefinite := by
  have hstands : v.ticked = v.render.1 := by
    rw [Voice.ticked_of_sounding h.2, Voice.countdown_stands _ (.inr (v.render_dur.trans hdur))]
  rw [hstands]
  exact ⟨h.render, v.render_dur.trans hdur⟩

theorem Voice.Held.ticked_counts {n : Nat} (hdur : v.dur.toNat = n + 1) (hn : 1 ≤ n) (hmax : n + 1 ≤ 0xFFFFFFFE) :
    v.ticked.Held ∧ v.ticked.dur.toNat = n := by
  have hcounts : v.ticked = { v.render.1 with dur := v.render.1.dur - 1 } := by
    rw [Voice.ticked_of_sounding h.2]
    apply Voice.countdown_counts <;> rw [Voice.render_dur] <;> bv_omega
  rw [hcounts]
  refine ⟨h.render, ?_⟩
  show (v.render.1.dur - 1).toNat = n
  rw [Voice.render_dur]
  bv_omega

theorem Voice.Held.ticked_ends (hdur : v.dur = 1) : v.ticked.ampPh = .release ∧ v.ticked.dur = 0 := by
  rw [Voice.ticked_of_sounding h.2, Voice.countdown_ends _ (v.render_dur.trans hdur)]
  exact ⟨EnvPhase.released_of_ne_idle h.render.2, rfl⟩

/-- Before its last tick a held voice is held, one sample less to go per tick (43_mixer.md R161). -/
theorem Voice.Held.iterate_counts {n : Nat} (hdur : v.dur.toNat = n) (hmax : n ≤ 0xFFFFFFFE) {k : Nat} (hk : k < n) :
    (Voice.ticked^[k] v).Held ∧ (Voice.ticked^[k] v).dur.toNat = n - k := by
  induction k with
  | zero => exact ⟨h, hdur⟩
  | succ k ih =>
    obtain ⟨hheld, hcount⟩ := ih (by omega)
    rw [Function.iterate_succ_apply']
    exact hheld.ticked_counts (by omega) (by omega) (by omega)

theorem Voice.Held.iterate_ends {n : Nat} (hdur : v.dur.toNat = n) (hpos : 1 ≤ n) (hmax : n ≤ 0xFFFFFFFE) :
    (Voice.ticked^[n] v).ampPh = .release ∧ (Voice.ticked^[n] v).dur = 0 := by
  obtain ⟨m, rfl⟩ : ∃ m, n = m + 1 := ⟨n - 1, by omega⟩
  obtain ⟨hheld, hcount⟩ := h.iterate_counts hdur hmax (Nat.lt_succ_self m)
  rw [Function.iterate_succ_apply']
  exact hheld.ticked_ends (BitVec.eq_of_toNat_eq (hcount.trans (Nat.add_sub_cancel_left m 1)))

theorem Voice.Held.iterate_indefinite (hdur : v.dur = indefinite) (k : Nat) :
    (Voice.ticked^[k] v).Held ∧ (Voice.ticked^[k] v).dur = indefinite := by
  induction k with
  | zero => exact ⟨h, hdur⟩
  | succ k ih =>
    rw [Function.iterate_succ_apply']
    exact ih.1.ticked_indefinite ih.2

end

/-! ### The release tail -/

/-- What a level in RELEASE loses per tick: with R = 0 more than any level (42_envelopes.md R150). -/
def Snap.releaseRate (p : Snap) : Nat := if p.envR = 0 then 2 ^ 21 else envStep p.envR.toNat

theorem Snap.releaseRate_pos (p : Snap) : 0 < p.releaseRate := by
  unfold Snap.releaseRate
  split
  · decide
  · exact lt_of_lt_of_le Nat.one_pos (Nat.le_max_left ..)

/-- One tick of RELEASE: the level less the rate, and IDLE at 0. -/
theorem ampEnvStep_release (p : Snap) (e : BitVec 21) :
    (ampEnvStep p .release e).2.toNat = e.toNat - p.releaseRate ∧
    (ampEnvStep p .release e).1 = if e.toNat ≤ p.releaseRate then .idle else .release := by
  obtain ⟨-, -, -, -, hlevel, hphase, -⟩ := overallEnvelopeRules p e
  have hrate : (ampEnvStep p .release e).2.toNat = e.toNat - p.releaseRate := by
    rw [hlevel, Snap.releaseRate]
    split
    case isTrue => omega
    case isFalse => rfl
  refine ⟨hrate, hphase.trans (if_congr ?_ rfl rfl)⟩
  rw [← BitVec.toNat_inj, hrate]
  exact Nat.sub_eq_zero_iff_le

/-- A tick of a voice in its release tail. -/
theorem Voice.ticked_release {v : Voice} (hphase : v.ampPh = .release) (hdur : v.dur = 0) :
    v.ticked.snap = v.snap ∧ v.ticked.dur = 0 ∧ v.ticked.ampE.toNat = v.ampE.toNat - v.snap.releaseRate ∧
    v.ticked.ampPh = if v.ampE.toNat ≤ v.snap.releaseRate then .idle else .release := by
  have hsounding : v.ampPh ≠ .idle := by rw [hphase]; decide
  rw [Voice.ticked_of_sounding hsounding, Voice.countdown_stands _ (.inl (v.render_dur.trans hdur)),
    Voice.render_ampE, Voice.render_ampPh, hphase]
  exact ⟨v.render_snap, v.render_dur.trans hdur, ampEnvStep_release ..⟩

/-- While the level outlasts `k` ticks, the voice is in its tail after them. -/
theorem Voice.iterate_release {v : Voice} (hphase : v.ampPh = .release) (hdur : v.dur = 0) {k : Nat}
    (hk : v.snap.releaseRate * k < v.ampE.toNat) :
    (Voice.ticked^[k] v).snap = v.snap ∧ (Voice.ticked^[k] v).dur = 0 ∧
    (Voice.ticked^[k] v).ampE.toNat = v.ampE.toNat - v.snap.releaseRate * k ∧
    (Voice.ticked^[k] v).ampPh = .release := by
  induction k with
  | zero => exact ⟨rfl, hdur, rfl, hphase⟩
  | succ k ih =>
    rw [Nat.mul_succ] at hk ⊢
    obtain ⟨hsnap, hdur', hlevel, hphase'⟩ := ih (by omega)
    obtain ⟨hsnap', hdur'', hlevel', hphase''⟩ := Voice.ticked_release hphase' hdur'
    rw [hsnap, hlevel] at hlevel' hphase''
    rw [Function.iterate_succ_apply']
    refine ⟨hsnap'.trans hsnap, hdur'', ?_, ?_⟩
    · rw [hlevel', Nat.sub_sub]
    · rw [hphase'', if_neg (by omega)]

/-- The tick that the level does not outlast ends the tail. -/
theorem Voice.iterate_release_ends {v : Voice} (hphase : v.ampPh = .release) (hdur : v.dur = 0) {k : Nat}
    (hk : v.snap.releaseRate * k < v.ampE.toNat) (hend : v.ampE.toNat ≤ v.snap.releaseRate * (k + 1)) :
    (Voice.ticked^[k + 1] v).ampPh = .idle ∧ (Voice.ticked^[k + 1] v).ampE = 0 := by
  obtain ⟨hsnap, hdur', hlevel, hphase'⟩ := Voice.iterate_release hphase hdur hk
  obtain ⟨-, -, hlevel', hphase''⟩ := Voice.ticked_release hphase' hdur'
  rw [hsnap, hlevel] at hlevel' hphase''
  rw [Nat.mul_succ] at hend
  rw [Function.iterate_succ_apply']
  refine ⟨by rw [hphase'', if_pos (by omega)], BitVec.eq_of_toNat_eq ?_⟩
  rw [hlevel']
  exact Nat.sub_eq_zero_of_le (by omega)

/-! ### The obligations -/

/-- The statements' tick of one voice. -/
theorem Voice.tick_none_eq_ticked : (fun u : Voice => (u.tick none).1) = Voice.ticked :=
  funext fun u => u.tick_fst none

/-- Settles O37: a held voice counts down tick by tick, and the countdown that reaches 0 releases it. -/
theorem noteIsHeldForItsDuration : Obligations.NoteIsHeldForItsDuration := by
  intro v
  refine ⟨v.countdown_stands, v.countdown_counts, v.countdown_ends, fun hattack => ?_⟩
  have hheld : v.Held := by
    rw [Voice.Held, hattack]
    decide
  rw [Voice.tick_none_eq_ticked]
  refine ⟨fun n hdur hpos hmax => ⟨fun k hk => ?_, hheld.iterate_ends hdur hpos hmax⟩, fun hdur k => ?_⟩
  · obtain ⟨⟨hrelease, hidle⟩, hcount⟩ := hheld.iterate_counts hdur hmax hk
    exact ⟨hrelease, hidle, hcount⟩
  · obtain ⟨⟨hrelease, hidle⟩, hindefinite⟩ := hheld.iterate_indefinite hdur k
    exact ⟨hindefinite, hrelease, hidle⟩

/-- The number of ticks of a tail, as the statement writes it, is the level divided by the rate, rounded up. -/
theorem releaseTicks_eq {v : Voice} (hlevel : v.ampE ≠ 0) :
    (if v.snap.envR = 0 then 1 else
      (v.ampE.toNat + envStep v.snap.envR.toNat - 1) / envStep v.snap.envR.toNat) =
    v.ampE.toNat ⌈/⌉ v.snap.releaseRate := by
  rw [Nat.ceilDiv_eq_add_pred_div, Snap.releaseRate]
  split
  case isTrue =>
    have hpos : v.ampE.toNat ≠ 0 := fun h => hlevel (BitVec.eq_of_toNat_eq h)
    omega
  case isFalse => rfl

/-- Settles O38: the level falls by the rate each tick, so the tail ends with the first tick that it does not
outlast. -/
theorem releaseTailLength : Obligations.ReleaseTailLength := by
  intro v hphase hdur hlevel rate n
  have hn : n = v.ampE.toNat ⌈/⌉ v.snap.releaseRate := releaseTicks_eq hlevel
  have houtlasts {k : Nat} (hk : k < n) : v.snap.releaseRate * k < v.ampE.toNat := by
    rwa [hn, ← not_le, ceilDiv_le_iff_le_mul v.snap.releaseRate_pos, not_le] at hk
  have hend : v.ampE.toNat ≤ v.snap.releaseRate * n :=
    (ceilDiv_le_iff_le_mul v.snap.releaseRate_pos).mp hn.ge
  have hpos : n ≠ 0 := by
    intro h0
    rw [h0] at hend
    exact hlevel (BitVec.eq_of_toNat_eq (Nat.le_zero.mp hend))
  obtain ⟨m, hm⟩ := Nat.exists_eq_succ_of_ne_zero hpos
  rw [Voice.tick_none_eq_ticked]
  refine ⟨fun k hk => ?_, ?_⟩
  · obtain ⟨-, -, -, hrelease⟩ := Voice.iterate_release hphase hdur (houtlasts hk)
    exact hrelease
  · rw [hm] at hend ⊢
    exact Voice.iterate_release_ends hphase hdur (houtlasts (by omega)) hend

end Sys2Proof.Machine
end

section
/-! The registers that hold the error record, DUR and TEMPO, and what the host reads from reset (10_state.md R21 to
R31, R47). -/

namespace Sys2Proof.Machine

/-! ### The bits of ERR (R26) -/

/-- CODE stands below bit 8, so the two fields of ERR do not overlap. -/
theorem State.errWord_getLsbD (s : State) (j : Nat) : s.errWord.getLsbD j =
    if j < 8 then s.errCode.getLsbD j else ([s.errMore][j - 8]?).getD false := by
  have hcode : s.errCode.toNat < 2 ^ 8 := lt_trans s.errCode.isLt (by decide)
  have hfields : s.errCode.toNat + 256 * bitsToNat [s.errMore] = 2 ^ 8 * bitsToNat [s.errMore] + s.errCode.toNat :=
    Nat.add_comm ..
  rw [State.errWord, BitVec.getLsbD_ofNat, hfields, Nat.testBit_two_pow_mul_add _ hcode, testBit_bitsToNat]
  by_cases hj : j < 32
  · rw [decide_eq_true hj, Bool.true_and]
    rfl
  · rw [if_neg (by omega), if_neg (by omega), List.getElem?_eq_none (by simp; omega)]
    simp

/-! ### Reads from reset (R47) -/

/-- From 0x02C on every register is a channel's, and reads 0 where no voice is allocated, or a reserved word. -/
theorem exec_rd32_reset_above {a : Addr} (h4 : a.toNat % 4 = 0) (hlo : 0x02C ≤ a.toNat) (hhi : a.toNat < 0x100) :
    exec (.rd32 a) State.reset = .next { State.reset with response := .data32 0 } := by
  obtain ⟨n, hn⟩ : ∃ n, a.toNat = 4 * n := ⟨a.toNat / 4, by omega⟩
  obtain ⟨hstatus, hheld⟩ := State.channelWords_zero (s := State.reset) (n := n % 16) (.inr rfl)
  by_cases hstatusAddr : 0x040 ≤ a.toNat ∧ a.toNat < 0x080
  · rw [exec_rd32_chStatus (n := n % 16) (by omega) (by omega), hstatus]
  · by_cases hheldAddr : 0x080 ≤ a.toNat ∧ a.toNat < 0x0C0
    · rw [exec_rd32_chHeld (n := n % 16) (by omega) (by omega), hheld]
    · rw [exec_rd32_register hhi h4, regAt_reserved hlo hstatusAddr hheldAddr]
      rfl

theorem State.reset_no_allocated : ∀ c ∈ State.reset.channels.list, c.allocated = [] := by
  intro c hc
  rw [Bank.mem_fill hc, Channel.reset_allocated]

/-! ### The obligations -/

/-- Settles O16: CODE and MORE are the fields of the word read, and a write clears the record. -/
theorem errorRegister : Obligations.ErrorRegister := by
  refine ⟨fun s => ⟨s.errWord, exec_rd32_register (by decide) (by decide) s, fun j hj => ?_, ?_, fun j hlo hj => ?_⟩,
    fun s d => exec_wr32_register (by decide) (by decide) d s⟩
  · rw [State.errWord_getLsbD, if_pos (by omega)]
  · rw [State.errWord_getLsbD]
    rfl
  · rw [State.errWord_getLsbD]
    split
    case isTrue => exact BitVec.getLsbD_of_ge _ _ hlo
    case isFalse =>
      rw [List.getElem?_eq_none (by simp; omega)]
      rfl

/-- Settles O11: each address is a register's, whose read has no effect. -/
theorem registerReads : Obligations.RegisterReads := by
  intro s reads
  have hread {a : Addr} (h : a.toNat < 0x100) (h4 : a.toNat % 4 = 0) := exec_rd32_register h h4 s
  exact ⟨hread (by decide) (by decide), hread (by decide) (by decide), hread (by decide) (by decide),
    hread (by decide) (by decide), hread (by decide) (by decide), hread (by decide) (by decide),
    hread (by decide) (by decide), hread (by decide) (by decide)⟩

/-- Settles O12: the two addresses are the registers' own, whose writes store. -/
theorem durationAndTempoStore : Obligations.DurationAndTempoStore := fun s d =>
  ⟨exec_wr32_register (by decide) (by decide) d s, d.setWidth 16, BitVec.toNat_setWidth ..,
    exec_wr32_register (by decide) (by decide) d s⟩

/-- Settles O8: at reset no voice is allocated, so STATUS reads 3 and every channel register 0; the others read as they
stand. -/
theorem resetRegisterValues : Obligations.ResetRegisterValues := by
  unfold Obligations.ResetRegisterValues
  intro reads
  obtain ⟨hid, hconfig, hcmd, hdur, herrCmd, htempo, hcount, hlast⟩ := registerReads State.reset
  have hstatus : reads 0x010 3 := (exec_rd32_status _).trans
    (by rw [State.statusWord_of_no_allocated State.reset_no_allocated])
  have herr : reads 0x014 0 := exec_rd32_register (by decide) (by decide) State.reset
  exact ⟨hid, hconfig, hcmd, hdur, hstatus, herr, herrCmd, htempo, hcount, hlast,
    fun a h4 hlo hhi => exec_rd32_reset_above h4 hlo hhi, rfl, rfl, rfl, rfl, rfl, rfl, rfl, rfl, rfl, rfl, rfl, rfl,
    rfl, rfl, fun k => ⟨Quad.get_fill .., Quad.get_fill .., Quad.get_fill ..⟩⟩

end Sys2Proof.Machine
end

section
/-! The registers that a render writes, and those that it leaves (41_voice_engine.md R113, R125, R126, R131). -/

namespace Sys2Proof.Machine

/-- An idle voice's clearing writes its operator envelopes alone (41_voice_engine.md R131). -/
theorem Voice.idleCleanup_frame (v : Voice) :
    v.idleCleanup = { v with opPh := v.idleCleanup.opPh, opE := v.idleCleanup.opE } := by
  unfold Voice.idleCleanup
  split <;> rfl

/-- The steps before the operators run write these registers alone. -/
theorem Voice.advance_frame (v : Voice) : v.advance = { v with
    base := v.glideStep.base, gPos := v.glideStep.gPos, lfoPhase := v.lfoStep.lfoPhase, lfoAge := v.lfoStep.lfoAge
    ampPh := v.advance.ampPh, ampE := v.advance.ampE, opPh := v.advance.opPh, opE := v.advance.opE } := rfl

/-- After them a render writes the phases, FB_PREV and, of an idle voice, the operator envelopes. -/
theorem Voice.render_frame (v : Voice) : v.render.1 = { v.advance with
    phase := v.render.1.phase
    fbPrev := BitVec.ofInt 13 (v.advance.outputs.get (algRow v.snap.alg).fbop)
    opPh := v.render.1.opPh, opE := v.render.1.opE } := by
  let u := (v.advance.phaseStep v.glideBase v.glideStep.lfoMod).feedbackStep v.advance.outputs
  have hphase : v.render.1.phase = u.phase := u.idleCleanup_phase
  rw [hphase]
  exact u.idleCleanup_frame

/-! ### The obligation -/

/-- Settles O51: the steps of a render write disjoint registers, and the LFO's factor is read from registers that the
glide step leaves. -/
theorem renderFrame : Obligations.RenderFrame := by
  intro v t a
  obtain ⟨hcleared, hkept⟩ := v.render_ops
  refine ⟨v.advance_frame, ?_, fun k => ?_, v.render_frame, v.render_phase, hkept, fun hidle k => ?_⟩
  · rfl
  · exact Prod.ext (v.advance_opPh k) (v.advance_opE k)
  · obtain ⟨hphases, hlevels⟩ := hcleared hidle
    exact ⟨(congrArg (Quad.get · k) hphases).trans (Quad.get_fill ..),
      (congrArg (Quad.get · k) hlevels).trans (Quad.get_fill ..)⟩

end Sys2Proof.Machine
end

section
/-! The operands of the note commands: which slots are legal (30_encoding.md R78, R79), and the conversion of a
duration in tracker ticks (40_commands.md R101). -/

namespace Sys2Proof.Machine

/-! ### Legal slots -/

theorem OpIx.forall_num_iff {P : Nat → Prop} : (∀ k : OpIx, P k.num) ↔ ∀ k, 1 ≤ k → k ≤ 4 → P k := by
  constructor
  · intro h k hlo hhi
    obtain rfl | rfl | rfl | rfl : k = 1 ∨ k = 2 ∨ k = 3 ∨ k = 4 := by omega
    · exact h .op1
    · exact h .op2
    · exact h .op3
    · exact h .op4
  · intro h k
    cases k <;> exact h _ (by decide) (by decide)

/-- A field of a byte is 0 exactly where its number is. -/
theorem field_eq_zero_iff (b : Byte) (lo n : Nat) :
    (b.extractLsb' lo n == 0) = true ↔ b.toNat / 2 ^ lo % 2 ^ n = 0 := by
  rw [beq_iff_eq, ← BitVec.toNat_inj, BitVec.extractLsb'_toNat, Nat.shiftRight_eq_div_pow]
  rfl

theorem opLegal_iff (byte : Nat → Byte) (b : Nat) : opLegal byte b = true ↔
    (byte b).toNat ≤ 100 ∧ (byte (b + 1)).toNat / 16 % 8 = 0 ∧ (byte (b + 2)).toNat ≤ 99 ∧
    (byte (b + 3)).toNat ≤ 100 ∧ (byte (b + 4)).toNat ≤ 100 ∧ (byte (b + 5)).toNat ≤ 100 ∧
    (byte (b + 6)).toNat ≤ 100 ∧ (byte (b + 7)).toNat / 2 = 0 := by
  have hflags : (byte (b + 7)).toNat / 2 ^ 1 % 2 ^ 7 = 0 ↔ (byte (b + 7)).toNat / 2 = 0 := by omega
  simp only [opLegal, Bool.and_eq_true, decide_eq_true_eq, field_eq_zero_iff, hflags, and_assoc]
  rfl

/-! ### The tempo conversion -/

theorem ticksFactor_lt_iff {bpm : Nat} (hbpm : 0 < bpm) : ticksFactor bpm < 32 ↔ 15000 < bpm := by
  rw [ticksFactor, Nat.div_lt_iff_lt_mul hbpm]
  show 480000 < 32 * bpm ↔ 15000 < bpm
  omega

theorem ticksToSamples_mono (bpm : Nat) : Monotone (ticksToSamples bpm) := fun _ _ h =>
  min_le_min_right _ (Nat.div_le_div_right (Nat.mul_le_mul_left _ (Nat.succ_le_succ h)))

theorem ticksToSamples_zero_iff {bpm : Nat} (hbpm : 0 < bpm) : ticksToSamples bpm 0 = 0 ↔ 15000 < bpm := by
  rw [← ticksFactor_lt_iff hbpm, ticksToSamples]
  omega

/-! ### The obligations -/

/-- Settles O52: the operators are numbered 1 to 4, and the two bit fields are 0 as numbers. -/
theorem patchLegality : Obligations.PatchLegality := by
  intro byte
  have hops : (∀ k : OpIx, opLegal byte (opOffset k) = true) ↔
      ∀ k, 1 ≤ k → k ≤ 4 → opLegal byte (16 + 8 * (k - 1)) = true :=
    OpIx.forall_num_iff (P := fun k => opLegal byte (16 + 8 * (k - 1)) = true)
  rw [patchLegal_iff, hops]
  simp only [opLegal_iff]

/-- Settles O54: the conversion is a product divided and saturated, and the host's factor is the block's at every tempo
but 0. -/
theorem tempoConversion : Obligations.TempoConversion := by
  intro bpm d hne
  have hpos : 0 < bpm.toNat := Nat.pos_of_ne_zero fun h => hne (BitVec.eq_of_toNat_eq h)
  refine ⟨(Nat.min_le_right ..).trans_lt (by decide), ticksToSamples_mono _ (Nat.le_succ d),
    ticksToSamples_zero_iff hpos, ?_⟩
  rw [samplesForDuration, hostTicksFactor, if_neg hne, ticksToSamples]

end Sys2Proof.Machine
end

section
/-! Voices that sound do not depend on patch RAM (20_memory.md R65, 70_reset_and_hazards.md R219). -/

namespace Sys2Proof.Machine

/-- The state with another content of patch RAM. -/
def State.withPatchRam (m : Memory) (s : State) : State := { s with patchRam := m }

/-- A tick reads and writes no byte of patch RAM. -/
theorem State.tick_withPatchRam (m : Memory) : Function.Semiconj (State.withPatchRam m) State.tick State.tick :=
  fun _ => rfl

/-! ### The obligation -/

/-- Settles O60: a tick commutes with a change of patch RAM, and so does any number of ticks. -/
theorem soundingVoicesIgnorePatchRam : Obligations.SoundingVoicesIgnorePatchRam := by
  intro s m k
  have hticks := (State.tick_withPatchRam m).iterate_right k s
  exact ⟨(congrArg State.lastSample hticks).symm, (congrArg State.channels hticks).symm⟩

end Sys2Proof.Machine
end
